-- ==== Sys2Proof/Word.lean ====
section
/-! DEFINITION. The widths of QRC's data: the 32-bit command and bus word (spec/30_encoding.md R100,
spec/00_scope.md R7) and the byte of a codeword (spec/00_scope.md R13 "Codeword"). -/

namespace Sys2Proof

/-- A command word, a bus word, the operand register `S_ARG` (R100, R39). -/
abbrev Word := BitVec 32

/-- A codeword, an element of GF(2^8), an opcode (R13, R200, R100). -/
abbrev Byte := BitVec 8

end Sys2Proof
end

