-- ==== Sys2Proof/Syntax.lean ====
section
/-! DEFINITION. The commands of QRC as data: one constructor per row of the opcode map
(spec/30_encoding.md R110), its operands the fields of its format (R102 to R109), unsigned and
unscaled (R101). -/

namespace Sys2Proof

/-- Error-correction level, by name (spec/10_state.md R36): tables are indexed by the name, never by
the format code. -/
inductive Level where
  | l | m | q | h
deriving DecidableEq, Repr

/-- The four data modes (spec/41_bitsink_framing.md R175). -/
inductive Mode where
  | numeric | alphanumeric | byte | kanji
deriving DecidableEq, Repr

/-- A command. The `ignored` operand of NOP and SOFT_RESET is bits [23:0] of the word, which the
command does not use (R103); the syntax keeps it so that a word is its instruction and back
(DESIGN CHOICE, log entry 16). -/
inductive Instr where
  | nop (ignored : BitVec 24)
  | softReset (ignored : BitVec 24)
  | config (fnc1 : BitVec 2) (maskAuto : Bool) (maskId : BitVec 3) (ecl : Level) (version : BitVec 6)
  | appendBits (n : BitVec 6)
  | saHeader (parity : BitVec 8) (count : BitVec 5) (index : BitVec 4)
  | eci (value : BitVec 20)
  | segBegin (count : BitVec 16) (mode : Mode)
  | put (char : BitVec 16)
  | finish
  | ecc
  | place
  | mask
  | run
deriving DecidableEq, Repr

end Sys2Proof
end

