-- ==== Sys2Proof/WellFormed.lean ====
section
/-! DEFINITION. Which operands the formats call legal (the `values` columns of spec/30_encoding.md
R104 to R109), as far as the word alone decides it. An illegal operand still has an encoding; its
command fails with *InvalidArgument* (spec/60_exceptions.md R321). The width of SEG_BEGIN's COUNT
and the class of PUT's CHAR depend on the state, so their commands check them. -/

namespace Sys2Proof

/-- R104: VERSION 1..40. -/
def legalVersion (version : BitVec 6) : Bool := 1 ≤ version.toNat && version.toNat ≤ 40

/-- R104: FNC1 0, 1 or 2. -/
def legalFnc1 (fnc1 : BitVec 2) : Bool := fnc1.toNat != 3

/-- R105: N 0..31. -/
def legalBitCount (n : BitVec 6) : Bool := n.toNat ≤ 31

/-- R106: COUNT 1..16. -/
def legalSymbolCount (count : BitVec 5) : Bool := 1 ≤ count.toNat && count.toNat ≤ 16

/-- R106: INDEX below COUNT. -/
def legalSymbolIndex (index : BitVec 4) (count : BitVec 5) : Bool := index.toNat < count.toNat

/-- R107: VALUE 0..999999. -/
def legalEci (value : BitVec 20) : Bool := value.toNat ≤ 999999

/-- A command whose operands are legal by its format. -/
def Instr.wellFormed : Instr → Bool
  | .nop _ => true
  | .softReset _ => true
  | .config fnc1 _ _ _ version => legalVersion version && legalFnc1 fnc1
  | .appendBits n => legalBitCount n
  | .saHeader _ count index => legalSymbolCount count && legalSymbolIndex index count
  | .eci value => legalEci value
  | .segBegin _ _ => true
  | .put _ => true
  | .finish => true
  | .ecc => true
  | .place => true
  | .mask => true
  | .run => true

end Sys2Proof
end

