-- ==== Sys2Proof/Decode.lean ====
section
/-! DEFINITION. The decoder, total on 32-bit words (spec/30_encoding.md R111): a word is an
instruction, an assigned opcode with a reserved bit set, or an unassigned opcode. After it the
encoder, written from the same formats (R102 to R109). -/

namespace Sys2Proof

/-- Why a word is no instruction: cases (b) and (c) of R111. -/
inductive DecodeError where
  /-- an assigned opcode whose reserved bits are not all 0 -/
  | reservedBits
  /-- an unassigned opcode (R112) -/
  | unassignedOpcode
deriving DecidableEq, Repr

/-- The level's format-indicator code: L=01, M=00, Q=11, H=10 (spec/10_state.md R36). -/
def Level.code : Level → BitVec 2
  | .l => 0b01#2
  | .m => 0b00#2
  | .q => 0b11#2
  | .h => 0b10#2

/-- `level_name` of spec/40_control.md R133: every 2-bit code names a level. -/
def Level.ofCode (code : BitVec 2) : Level :=
  match code.toNat with
  | 0 => .m
  | 1 => .l
  | 2 => .h
  | _ => .q

/-- The mode's code in SEG_BEGIN and `SEG.MODE` (R108, R46). -/
def Mode.code : Mode → BitVec 2
  | .numeric => 0#2
  | .alphanumeric => 1#2
  | .byte => 2#2
  | .kanji => 3#2

/-- The mode a 2-bit code names (R108): every code names one. -/
def Mode.ofCode (code : BitVec 2) : Mode :=
  match code.toNat with
  | 0 => .numeric
  | 1 => .alphanumeric
  | 2 => .byte
  | _ => .kanji

/-- `w[31:24]` (R100). -/
def opcodeOf (w : Word) : Byte := w.extractLsb' 24 8

/-- The instruction `i` if the format's reserved field is 0, else case (b) of R111. -/
def unlessReserved {n : Nat} (reserved : BitVec n) (i : Instr) : Except DecodeError Instr :=
  if reserved = 0 then .ok i else .error .reservedBits

/-- The decoder: opcode map R110 with the formats R102 to R109. -/
def decode (w : Word) : Except DecodeError Instr :=
  match (opcodeOf w).toNat with
  | 0x00 => .ok (.nop (w.extractLsb' 0 24))
  | 0x01 => .ok (.softReset (w.extractLsb' 0 24))
  | 0x10 => unlessReserved (w.extractLsb' 14 10)
      (.config (w.extractLsb' 12 2) (w.getLsbD 11) (w.extractLsb' 8 3)
        (Level.ofCode (w.extractLsb' 6 2)) (w.extractLsb' 0 6))
  | 0x20 => unlessReserved (w.extractLsb' 6 18) (.appendBits (w.extractLsb' 0 6))
  | 0x21 => unlessReserved (w.extractLsb' 17 7)
      (.saHeader (w.extractLsb' 9 8) (w.extractLsb' 4 5) (w.extractLsb' 0 4))
  | 0x22 => unlessReserved (w.extractLsb' 20 4) (.eci (w.extractLsb' 0 20))
  | 0x23 => unlessReserved (w.extractLsb' 2 6)
      (.segBegin (w.extractLsb' 8 16) (Mode.ofCode (w.extractLsb' 0 2)))
  | 0x24 => unlessReserved (w.extractLsb' 16 8) (.put (w.extractLsb' 0 16))
  | 0x30 => unlessReserved (w.extractLsb' 0 24) .finish
  | 0x31 => unlessReserved (w.extractLsb' 0 24) .ecc
  | 0x32 => unlessReserved (w.extractLsb' 0 24) .place
  | 0x33 => unlessReserved (w.extractLsb' 0 24) .mask
  | 0x3F => unlessReserved (w.extractLsb' 0 24) .run
  | _ => .error .unassignedOpcode

/-- The OPCODE of an instruction (R110). -/
def Instr.opcode : Instr → Byte
  | .nop _ => 0x00#8
  | .softReset _ => 0x01#8
  | .config _ _ _ _ _ => 0x10#8
  | .appendBits _ => 0x20#8
  | .saHeader _ _ _ => 0x21#8
  | .eci _ => 0x22#8
  | .segBegin _ _ => 0x23#8
  | .put _ => 0x24#8
  | .finish => 0x30#8
  | .ecc => 0x31#8
  | .place => 0x32#8
  | .mask => 0x33#8
  | .run => 0x3F#8

/-- The operand field `w[23:0]` of an instruction, its reserved bits 0 (R102 to R109). -/
def Instr.operandField : Instr → BitVec 24
  | .nop ignored => ignored
  | .softReset ignored => ignored
  | .config fnc1 maskAuto maskId ecl version =>
      0#10 ++ fnc1 ++ BitVec.ofBool maskAuto ++ maskId ++ ecl.code ++ version
  | .appendBits n => 0#18 ++ n
  | .saHeader parity count index => 0#7 ++ parity ++ count ++ index
  | .eci value => 0#4 ++ value
  | .segBegin count mode => count ++ 0#6 ++ mode.code
  | .put char => 0#8 ++ char
  | .finish => 0#24
  | .ecc => 0#24
  | .place => 0#24
  | .mask => 0#24
  | .run => 0#24

/-- The command word of an instruction (R100). -/
def encode (i : Instr) : Word := i.opcode ++ i.operandField

/-- The host's query: the instruction the decoder reads from a word of which the opcode table gives
`nbits` bits; every bit above them is 0. -/
def decodeTableWord (nbits w : Nat) : Option Instr :=
  match decode (BitVec.ofNat 32 (w % 2 ^ nbits)) with
  | .ok i => some i
  | .error _ => none

end Sys2Proof
end

