-- ==== Sys2Proof/Config.lean ====
section
/-! DEFINITION. What is fixed for this hardware (spec/00_scope.md R7, spec/20_memory.md R82) and the
two parameters the spec leaves OPEN (spec/92_eei_decisions.md D3, D46). No rule depends on the OPEN
ones, so they are uninterpreted. -/

namespace Sys2Proof.Config

/-- `S_MAX`: the side of `MOD` and `FN` (R7, R82). -/
abbrev maxSide : Nat := 177

/-- Bytes of `S_DATACW` (R31, R82). -/
abbrev maxData : Nat := 2956

/-- Bytes of `S_STREAM` (R31, R82). -/
abbrev maxRaw : Nat := 3706

/-- Bytes of the register window (R80). -/
abbrev windowBytes : Nat := 4096

/-- `QRC_BASE`, the window's place in the host's address map: OPEN (D3). The model addresses a
register by its offset from it. Log entry 9. -/
opaque qrcBase : Nat

/-- `T_CMD(op, v)`, the duration of a command: OPEN (D46). The model has no time. Log entry 9. -/
opaque commandTime : Byte → BitVec 6 → Nat

end Sys2Proof.Config
end

