-- ==== Sys2Proof/Machine/State.lean ====
section
/-! DEFINITION. The state of QRC: every element of spec/10_state.md R31, and the host's side of the
bus as plain data. Reset values: spec/70_reset_and_hazards.md R351. -/

namespace Sys2Proof.Machine

/-- `S_PHASE` (R32). Code 6 is reserved and never entered, so it has no name (log entry 11). -/
inductive Phase where
  | idle | framing | padded | interleaved | placed | done | error
deriving DecidableEq, Repr

/-- `S_ERR` (spec/60_exceptions.md R320). Codes 6..15 are never produced, so they have no name (log
entry 11). `invalidEciEscape` is the reserved code 4, never raised. -/
inductive ErrCode where
  | noError | invalidArgument | incompatibleOverride | dataTooLong | invalidEciEscape | internal
deriving DecidableEq, Repr

/-- `S_FNC1` (R38). -/
inductive Fnc1 where
  | absent | first | second
deriving DecidableEq, Repr

/-- A 177 by 177 array of bits, row-major: bit x of row y is the cell (x, y) (R31, spec/00_scope.md
R10). -/
abbrev Grid := Vector (BitVec Config.maxSide) Config.maxSide

/-- The symbol's modules and their function flags (R49): `mod` is `MOD`, 1 = dark, `fn` is `FN`. -/
structure Matrix where
  mod : Grid
  fn  : Grid
deriving DecidableEq, Repr

/-- What the outside does to QRC (R30; spec/20_memory.md R83, R85; spec/70_reset_and_hazards.md R350).
An access is given by its byte offset from `QRC_BASE` and its width in bytes. -/
inductive HostEvent where
  /-- a bus read -/
  | read (offset width : Nat)
  /-- a bus write; a write of another width than 4 bytes is ignored whatever its value -/
  | write (offset width : Nat) (value : Word)
  /-- the platform asserts `rst` between two accesses -/
  | rst
deriving DecidableEq, Repr

/-- The elements of R31, then the model's two fields for the host's side of the bus. -/
structure State where
  /-- `S_PHASE` -/
  phase : Phase
  /-- `S_ERR` -/
  err : ErrCode
  /-- `S_ERR_OP` -/
  errOp : Byte
  /-- `S_VERSION` -/
  version : BitVec 6
  /-- `S_ECL` -/
  ecl : Level
  /-- `S_MASK_ID` -/
  maskId : BitVec 3
  /-- `S_MASK_AUTO` -/
  maskAuto : Bool
  /-- `S_FNC1` -/
  fnc1 : Fnc1
  /-- `S_SIZE` -/
  size : BitVec 8
  /-- `S_BUCKET` -/
  bucket : BitVec 2
  /-- `S_RAWBITS` -/
  rawBits : BitVec 15
  /-- `S_RAW` -/
  raw : BitVec 12
  /-- `S_BLOCKS` -/
  blocks : BitVec 8
  /-- `S_ECCLEN` -/
  eccLen : BitVec 8
  /-- `S_DATA` -/
  data : BitVec 12
  /-- `S_ARG` -/
  arg : Word
  /-- `S_BITBUF`, the first bit appended first (spec/20_memory.md R88) -/
  bitBuf : List Bool
  /-- `S_BITLEN` -/
  bitLen : BitVec 15
  /-- `S_SEG_OPEN` -/
  segOpen : Bool
  /-- `S_SEG_MODE` -/
  segMode : Mode
  /-- `S_REMAIN` -/
  remain : BitVec 16
  /-- `S_PEND_N` -/
  pendN : BitVec 2
  /-- `S_PEND_VAL` -/
  pendVal : BitVec 10
  /-- `S_FNC1_DONE` -/
  fnc1Done : Bool
  /-- `S_SA_DONE` -/
  saDone : Bool
  /-- `S_DATA_SEEN` -/
  dataSeen : Bool
  /-- `S_DATACW[0..2955]`: its entries from 0 up as far as FINISH has written; see `entry` -/
  dataCw : List Byte
  /-- `S_STREAM[0..3705]`: its entries from 0 up as far as ECC has written; see `entry` -/
  stream : List Byte
  /-- `MOD` and `FN` -/
  matrix : Matrix
  /-- `S_PEN` -/
  pen : Vector Word 8
  /-- `S_PEN_VALID` -/
  penValid : BitVec 8
  /-- `S_CHOSEN` -/
  chosen : BitVec 3
  /-- `S_RESULT_VALID` -/
  resultValid : Bool
  /-- `S_DARK` -/
  dark : BitVec 15
  /-- `S_MOD_X` -/
  modX : BitVec 8
  /-- `S_MOD_Y` -/
  modY : BitVec 8
  /-- `S_CW_IDX` -/
  cwIdx : BitVec 12
  /-- The model's own: the host events still to come, oldest first (DESIGN CHOICE, log entry 1). -/
  pending : List HostEvent
  /-- The model's own: the word the most recent bus read returned (DESIGN CHOICE, log entry 2). -/
  readData : Option Word
deriving DecidableEq, Repr

/-- Why a step stops: QRC itself never stops (its errors are the ERROR phase, spec/60_exceptions.md
R322). -/
inductive Fault where
  /-- Raised by `step` for an access at an offset outside the 4096-byte window (spec/20_memory.md
  R80): no such offset exists. Safe: QRC is not selected. Log entry 6. -/
  | outsideWindow
deriving DecidableEq, Repr

/-- Why an instruction has no meaning. -/
inductive Refusal where
  /-- Raised by an arm of `exec` whose instruction is not modelled; no arm is. Safe. -/
  | notModelled (mnemonic : String)
deriving DecidableEq, Repr

/-- Every bit of an array 0: the model's named contents of `MOD` and `FN` after reset, which the spec
leaves unspecified and no read observes (R76; DESIGN CHOICE, log entry 4). -/
def Matrix.blank : Matrix where
  mod := Vector.replicate Config.maxSide 0#177
  fn := Vector.replicate Config.maxSide 0#177

/-- The machine after reset (spec/70_reset_and_hazards.md R351), the host having issued no access. -/
def State.reset : State where
  phase := .idle
  err := .noError
  errOp := 0
  version := 0
  ecl := .m
  maskId := 0
  maskAuto := false
  fnc1 := .absent
  size := 0
  bucket := 0
  rawBits := 0
  raw := 0
  blocks := 0
  eccLen := 0
  data := 0
  arg := 0
  bitBuf := []
  bitLen := 0
  segOpen := false
  segMode := .numeric
  remain := 0
  pendN := 0
  pendVal := 0
  fnc1Done := false
  saDone := false
  dataSeen := false
  dataCw := []
  stream := []
  matrix := Matrix.blank
  pen := Vector.replicate 8 0#32
  penValid := 0
  chosen := 0
  resultValid := false
  dark := 0
  modX := 0
  modY := 0
  cwIdx := 0
  pending := []
  readData := none

end Sys2Proof.Machine
end

