-- ==== Sys2Proof/Machine/Tables.lean ====
section
/-! DEFINITION. The ROM of QRC and the version geometry: spec/10_state.md R41 to R44,
spec/42_rs_codec.md R220, R221, spec/41_bitsink_framing.md R175, R176. -/

namespace Sys2Proof.Machine

/-- `S = 4v + 17` (R41). -/
def sideLength (v : Nat) : Nat := 4 * v + 17

/-- The version bucket (R42). -/
def versionBucket (v : Nat) : Nat := if v ≤ 9 then 0 else if v ≤ 26 then 1 else 2

/-- `R(v)`, the raw data-module count (R43). -/
def rawModules (v : Nat) : Nat :=
  let r := (16 * v + 128) * v + 64
  if v ≥ 2 then
    let n := v / 7 + 2
    let r := r - (25 * n - 10) * n + 55
    if v ≥ 7 then r - 36 else r
  else r

/-- The columns of `ECC_LEN` (R220), one per level name; entry v is version v, entry 0 is unused.
The spec marks its values as general knowledge (log entry 15). -/
def eccLenColumn : Level → List Nat
  | .l => [0] ++
      [7, 10, 15, 20, 26, 18, 20, 24, 30, 18] ++
      [20, 24, 26, 30, 22, 24, 28, 30, 28, 28] ++
      [28, 28, 30, 30, 26, 28, 30, 30, 30, 30] ++
      [30, 30, 30, 30, 30, 30, 30, 30, 30, 30]
  | .m => [0] ++
      [10, 16, 26, 18, 24, 16, 18, 22, 22, 26] ++
      [30, 22, 22, 24, 24, 28, 28, 26, 26, 26] ++
      [26, 28, 28, 28, 28, 28, 28, 28, 28, 28] ++
      [28, 28, 28, 28, 28, 28, 28, 28, 28, 28]
  | .q => [0] ++
      [13, 22, 18, 26, 18, 24, 18, 22, 20, 24] ++
      [28, 26, 24, 20, 30, 24, 28, 28, 26, 30] ++
      [28, 30, 30, 30, 30, 28, 30, 30, 30, 30] ++
      [30, 30, 30, 30, 30, 30, 30, 30, 30, 30]
  | .h => [0] ++
      [17, 28, 22, 16, 22, 28, 26, 26, 24, 28] ++
      [24, 28, 22, 24, 24, 30, 28, 28, 26, 28] ++
      [30, 24, 30, 30, 30, 30, 30, 30, 30, 30] ++
      [30, 30, 30, 30, 30, 30, 30, 30, 30, 30]

/-- The columns of `BLOCKS` (R221), laid out as `eccLenColumn` (log entry 15). -/
def blocksColumn : Level → List Nat
  | .l => [0] ++
      [1, 1, 1, 1, 1, 2, 2, 2, 2, 4] ++
      [4, 4, 4, 4, 6, 6, 6, 6, 7, 8] ++
      [8, 9, 9, 10, 12, 12, 12, 13, 14, 15] ++
      [16, 17, 18, 19, 19, 20, 21, 22, 24, 25]
  | .m => [0] ++
      [1, 1, 1, 2, 2, 4, 4, 4, 5, 5] ++
      [5, 8, 9, 9, 10, 10, 11, 13, 14, 16] ++
      [17, 17, 18, 20, 21, 23, 25, 26, 28, 29] ++
      [31, 33, 35, 37, 38, 40, 43, 45, 47, 49]
  | .q => [0] ++
      [1, 1, 2, 2, 4, 4, 6, 6, 8, 8] ++
      [8, 10, 12, 16, 12, 17, 16, 18, 21, 20] ++
      [23, 23, 25, 27, 29, 34, 34, 35, 38, 40] ++
      [43, 45, 48, 51, 53, 56, 59, 62, 65, 68]
  | .h => [0] ++
      [1, 1, 2, 4, 4, 4, 5, 6, 8, 8] ++
      [11, 11, 16, 16, 18, 16, 19, 21, 25, 25] ++
      [25, 34, 30, 32, 35, 37, 40, 42, 45, 48] ++
      [51, 54, 57, 60, 63, 66, 70, 74, 77, 81]

/-- `ECC_LEN[e][v]`, the ECC codewords per block (R220). -/
def eccLength (e : Level) (v : Nat) : Nat := (eccLenColumn e).getD v 0

/-- `BLOCKS[e][v]`, the block count (R221). -/
def blockCount (e : Level) (v : Nat) : Nat := (blocksColumn e).getD v 0

/-- `D(v, e)`, the data codewords (R44). -/
def dataCodewords (e : Level) (v : Nat) : Nat :=
  rawModules v / 8 - blockCount e v * eccLength e v

/-- `cciw(mode, bucket)`, the count-indicator width (R176). -/
def countWidth (mode : Mode) (bucket : Nat) : Nat :=
  match mode, bucket with
  | .numeric, 0 => 10
  | .numeric, 1 => 12
  | .numeric, _ => 14
  | .alphanumeric, 0 => 9
  | .alphanumeric, 1 => 11
  | .alphanumeric, _ => 13
  | .byte, 0 => 8
  | .byte, _ => 16
  | .kanji, 0 => 8
  | .kanji, 1 => 10
  | .kanji, _ => 12

/-- The mode indicator of a data mode (R175). -/
def modeIndicator : Mode → Nat
  | .numeric => 0b0001
  | .alphanumeric => 0b0010
  | .byte => 0b0100
  | .kanji => 0b1000

/-- The ECI mode indicator (R175). -/
def eciIndicator : Nat := 0b0111

/-- The Structured Append indicator (R175). -/
def structuredAppendIndicator : Nat := 0b0011

/-- The FNC1 indicator of the setting in effect, if one is (R175, R179). -/
def fnc1Indicator : Fnc1 → Option Nat
  | .absent => none
  | .first => some 0b0101
  | .second => some 0b1001

end Sys2Proof.Machine
end

