-- ==== Sys2Proof/Machine/Ops.lean ====
section
/-! DEFINITION. The shared operations: arrays of fixed shape, the bit buffer, and the way every
command ends (spec/40_control.md R130, spec/60_exceptions.md R322 to R324). -/

namespace Sys2Proof.Machine

/-- The vector whose entry i is `f i`. -/
def tabulate {α : Type} (n : Nat) (f : Nat → α) : Vector α n :=
  ⟨((List.range n).map f).toArray, by simp⟩

/-- Entry i of a byte array; one that no command has written reads as 0. The spec leaves the contents
of an unwritten entry unspecified, and no read observes it (spec/10_state.md R76; DESIGN CHOICE, log
entry 4). -/
def entry (bytes : List Byte) (i : Nat) : Byte := bytes.getD i 0

/-- The first `n` entries of a byte array. -/
def entries (n : Nat) (bytes : List Byte) : List Byte := (List.range n).map (entry bytes)

/-- `bytes` with its first entries replaced by those of `l`; the others stay. -/
def overwrite (bytes l : List Byte) : List Byte := l ++ bytes.drop l.length

/-- Row y of an array; a row outside it reads 0. -/
def row (g : Grid) (y : Nat) : BitVec Config.maxSide := g[y]?.getD 0

/-- `g[y][x]`: the cell (x, y) of an array (spec/00_scope.md R10). -/
def cell (g : Grid) (x y : Nat) : Bool := (row g y).getLsbD x

/-- A row with bit x set to b. -/
def setBit (r : BitVec Config.maxSide) (x : Nat) (b : Bool) : BitVec Config.maxSide :=
  if b then r ||| BitVec.twoPow Config.maxSide x else r &&& ~~~(BitVec.twoPow Config.maxSide x)

/-- `g[y][x] <- b`; a cell outside the array is not written. -/
def setCell (g : Grid) (x y : Nat) (b : Bool) : Grid := g.setIfInBounds y (setBit (row g y) x b)

/-- A row whose first `side` bits are replaced: bit x by `f x` of its old value. -/
def mapRow (f : Nat → Bool → Bool) (side : Nat) (r : BitVec Config.maxSide) :
    BitVec Config.maxSide :=
  (List.range side).foldl (fun r x => setBit r x (f x (r.getLsbD x))) r

/-- The loop `for y in 0 .. side-1: for x in 0 .. side-1: g[y][x] <- f x y g[y][x]`; cells outside
the square keep their value. -/
def mapSquare (f : Nat → Nat → Bool → Bool) (side : Nat) (g : Grid) : Grid :=
  tabulate Config.maxSide fun y =>
    if y < side then mapRow (fun x => f x y) side (row g y) else row g y

/-- The `n` low bits of `value`, most significant first (spec/20_memory.md R88). -/
def bitsOf (value : Nat) : Nat → List Bool
  | 0 => []
  | n + 1 => value.testBit n :: bitsOf value n

/-- `append_bits(value, n)` (spec/41_bitsink_framing.md R160), the one operation that adds to the bit
buffer. -/
def appendBits (value n : Nat) (s : State) : Except ErrCode State :=
  if n > 31 ∨ value >>> n ≠ 0 then .error .invalidArgument
  else if s.bitLen.toNat + n > 8 * s.data.toNat then .error .dataTooLong
  else .ok { s with
    bitBuf := s.bitBuf ++ bitsOf value n
    bitLen := BitVec.ofNat 15 (s.bitLen.toNat + n) }

/-- `error_entry(c, op)`: the state before the command with the three error fields written
(spec/60_exceptions.md R322). Applied to the state the command started from, it is also the
rollback. -/
def errorEntry (c : ErrCode) (op : Byte) (s : State) : State :=
  { s with phase := .error, err := c, errOp := op }

/-- The end of `command_step` (R130) for a command that ERROR makes the core ignore: in ERROR nothing
happens (R323); otherwise the body's state, or error entry from the state before it. -/
def command (op : Byte) (body : State → Except ErrCode State) (s : State) :
    Host.Outcome State Fault Refusal :=
  if s.phase = .error then .next s
  else match body s with
    | .ok s' => .next s'
    | .error c => .next (errorEntry c op s)

/-- Reset, by `rst` or SOFT_RESET (spec/70_reset_and_hazards.md R350): every element of R31 at its
reset value. It is the only way out of ERROR (R324). The host's side of the bus is no element of
R31, so it stays. -/
def resetElements (s : State) : State :=
  { State.reset with pending := s.pending, readData := s.readData }

end Sys2Proof.Machine
end

