-- ==== Sys2Proof/Machine/Operands.lean ====
section
/-! DEFINITION. The operands of commands: FNC1 codes (spec/40_control.md R133), the characters a mode
admits with their values (spec/41_bitsink_framing.md R170 to R174), the ECI designator (R167). -/

namespace Sys2Proof.Machine

/-- The FNC1 setting a 2-bit code names; 3 names none (spec/10_state.md R38, R133). -/
def fnc1OfCode (code : BitVec 2) : Option Fnc1 :=
  match code.toNat with
  | 0 => some .absent
  | 1 => some .first
  | 2 => some .second
  | _ => none

/-- The digit a Numeric PUT admits (R170). -/
def numericValue (c : Nat) : Option Nat := if 0x30 ≤ c ∧ c ≤ 0x39 then some (c - 0x30) else none

/-- The alphanumeric table (R171, R172): membership and value. -/
def alnumValue (c : Nat) : Option Nat :=
  if 0x30 ≤ c ∧ c ≤ 0x39 then some (c - 0x30)
  else if 0x41 ≤ c ∧ c ≤ 0x5A then some (c - 0x41 + 10)
  else match c with
    | 0x20 => some 36
    | 0x24 => some 37
    | 0x25 => some 38
    | 0x2A => some 39
    | 0x2B => some 40
    | 0x2D => some 41
    | 0x2E => some 42
    | 0x2F => some 43
    | 0x3A => some 44
    | _ => none

/-- The byte a Byte PUT admits (R173). -/
def byteValue (c : Nat) : Option Nat := if c ≤ 0xFF then some c else none

/-- The 13-bit value of an offset into the Kanji ranges (R174). -/
def kanjiPack (offset : Nat) : Nat := (offset >>> 8) * 0xC0 + (offset &&& 0xFF)

/-- `kanji_value` (R174). -/
def kanjiValue (c : Nat) : Option Nat :=
  if 0x8140 ≤ c ∧ c ≤ 0x9FFC then some (kanjiPack (c - 0x8140))
  else if 0xE040 ≤ c ∧ c ≤ 0xEBBF then some (kanjiPack (c - 0xC140))
  else none

/-- The value of a character a segment's mode admits; none for a character outside its class. -/
def charValue : Mode → Nat → Option Nat
  | .numeric => numericValue
  | .alphanumeric => alnumValue
  | .byte => byteValue
  | .kanji => kanjiValue

/-- The designator of an ECI value: the value `append_bits` takes and its width (R167). -/
def eciDesignator (v : Nat) : Nat × Nat :=
  if v < 128 then (v, 8)
  else if v < 16384 then ((0b10 <<< 14) ||| v, 16)
  else ((0b110 <<< 21) ||| v, 24)

end Sys2Proof.Machine
end

