-- ==== Sys2Proof/Machine/Control.lean ====
section
/-! DEFINITION. NOP, SOFT_RESET and CONFIG (spec/40_control.md R131 to R133). RUN stands in Run.lean,
after the four commands it performs. -/

namespace Sys2Proof.Machine

/-- NOP: no effect, in any phase, ERROR included (R131). -/
def execNop (s : State) : Host.Outcome State Fault Refusal := .next s

/-- SOFT_RESET: the reset, in any phase, ERROR included (R132). -/
def execSoftReset (s : State) : Host.Outcome State Fault Refusal := .next (resetElements s)

/-- The configuration and the geometry CONFIG latches (R133, spec/10_state.md R40). -/
def latchConfig (fnc1 : Fnc1) (maskAuto : Bool) (maskId : BitVec 3) (ecl : Level)
    (version : BitVec 6) (s : State) : State :=
  let v := version.toNat
  { s with
    version := version
    ecl := ecl
    fnc1 := fnc1
    maskAuto := maskAuto
    maskId := if maskAuto then 0 else maskId
    size := BitVec.ofNat 8 (sideLength v)
    bucket := BitVec.ofNat 2 (versionBucket v)
    rawBits := BitVec.ofNat 15 (rawModules v)
    raw := BitVec.ofNat 12 (rawModules v / 8)
    blocks := BitVec.ofNat 8 (blockCount ecl v)
    eccLen := BitVec.ofNat 8 (eccLength ecl v)
    data := BitVec.ofNat 12 (dataCodewords ecl v)
    phase := .framing }

/-- The body of CONFIG (R133). -/
def configBody (fnc1 : BitVec 2) (maskAuto : Bool) (maskId : BitVec 3) (ecl : Level)
    (version : BitVec 6) (s : State) : Except ErrCode State :=
  if s.phase ≠ .idle then .error .invalidArgument
  else if version.toNat < 1 ∨ version.toNat > 40 then .error .invalidArgument
  else match fnc1OfCode fnc1 with
    | none => .error .invalidArgument
    | some f => .ok (latchConfig f maskAuto maskId ecl version s)

/-- CONFIG (R133). -/
def execConfig (fnc1 : BitVec 2) (maskAuto : Bool) (maskId : BitVec 3) (ecl : Level)
    (version : BitVec 6) (s : State) : Host.Outcome State Fault Refusal :=
  command 0x10#8 (configBody fnc1 maskAuto maskId ecl version) s

end Sys2Proof.Machine
end

