-- ==== Sys2Proof/Machine/Codec.lean ====
section
/-! DEFINITION. The Reed-Solomon codec and the interleaving: ECC (spec/42_rs_codec.md). -/

namespace Sys2Proof.Machine

/-! ### GF(2^8) with reducing polynomial 0x11D (R200) -/

/-- One round of the multiplier (R201): shift, reduce if bit 7 was set, add x if bit i of y is set.
The accumulator has the ninth bit the shift can reach. -/
def gfRound (x y : Byte) (z : BitVec 9) (i : Nat) : BitVec 9 :=
  ((z <<< 1) ^^^ (if z.getLsbD 7 then 0x11D#9 else 0#9)) ^^^
    (if y.getLsbD i then x.setWidth 9 else 0#9)

/-- The accumulator of `gf_mul(x, y)` after the eight rounds, from bit 7 of y down to bit 0 (R201).
R201 asserts that it is below 256. -/
def gfMulWide (x y : Byte) : BitVec 9 := [7, 6, 5, 4, 3, 2, 1, 0].foldl (gfRound x y) 0#9

/-- `gf_mul(x, y)` (R201). -/
def gfMul (x y : Byte) : Byte := (gfMulWide x y).setWidth 8

/-- The primitive element alpha (R200). -/
def alpha : Byte := 0x02#8

/-! ### Divisor and remainder -/

/-- One round of `rs_divisor`: the polynomial times (x - root), high coefficient first (R205). -/
def timesRoot (root : Byte) (g : List Byte) : List Byte :=
  List.zipWith (fun a next => gfMul a root ^^^ next) g (g.drop 1 ++ [0#8])

/-- The rounds of `rs_divisor`, the root going up the powers of alpha (R205). -/
def divisorLoop : Nat → Byte → List Byte → List Byte
  | 0, _, g => g
  | rounds + 1, root, g => divisorLoop rounds (gfMul root alpha) (timesRoot root g)

/-- `rs_divisor(d)` (R205); degree 0 is the empty list (R206). -/
def rsDivisor : Nat → List Byte
  | 0 => []
  | d + 1 => divisorLoop (d + 1) 1#8 (List.replicate d 0#8 ++ [1#8])

/-- One data byte of the long division (R207). -/
def remainderStep (g : List Byte) (r : List Byte) (b : Byte) : List Byte :=
  let factor := b ^^^ r.headD 0#8
  List.zipWith (fun c gi => c ^^^ gfMul gi factor) (r.drop 1 ++ [0#8]) g

/-- `rs_remainder(data, g)` (R207). -/
def rsRemainder (data g : List Byte) : List Byte :=
  data.foldl (remainderStep g) (List.replicate g.length 0#8)

/-! ### Block layout and interleaving -/

/-- The data bytes of each block (R225). -/
def blockLengths (blocks ecc raw : Nat) : List Nat :=
  (List.range blocks).map fun b =>
    raw / blocks - ecc + (if b < blocks - raw % blocks then 0 else 1)

/-- The data codewords cut into blocks of the given lengths, in order (R225). -/
def splitBlocks : List Nat → List Byte → List (List Byte)
  | [], _ => []
  | n :: ns, bytes => bytes.take n :: splitBlocks ns (bytes.drop n)

/-- The first `columns` columns of the ragged grid, row by row of each column, a block without an
entry in the column skipped (R227). -/
def interleave (columns : Nat) (blocks : List (List Byte)) : List Byte :=
  (List.range columns).flatMap fun i => blocks.filterMap fun block => block[i]?

/-- The codeword stream of the data codewords: data columns, then ECC columns (R226 to R229). -/
def codewordStream (blocks ecc raw : Nat) (data : List Byte) : List Byte :=
  let dataBlocks := splitBlocks (blockLengths blocks ecc raw) data
  let eccBlocks := dataBlocks.map fun block => rsRemainder block (rsDivisor ecc)
  interleave (raw / blocks - ecc + 1) dataBlocks ++ interleave ecc eccBlocks

/-- The body of ECC (R229). -/
def eccBody (s : State) : Except ErrCode State :=
  if s.phase ≠ .padded then .error .invalidArgument
  else .ok { s with
    stream := overwrite s.stream (codewordStream s.blocks.toNat s.eccLen.toNat s.raw.toNat
      (entries s.data.toNat s.dataCw))
    phase := .interleaved }

/-- ECC (R229). -/
def execEcc (s : State) : Host.Outcome State Fault Refusal := command 0x31#8 eccBody s

end Sys2Proof.Machine
end

