-- ==== Sys2Proof/Machine/Framing.lean ====
section
/-! DEFINITION. The bit buffer and segment framing engine: APPEND_BITS, SA_HEADER, ECI, SEG_BEGIN,
PUT, FINISH (spec/41_bitsink_framing.md). -/

namespace Sys2Proof.Machine

/-- FRAMING with no segment open: where APPEND_BITS, SA_HEADER, ECI, SEG_BEGIN and FINISH are legal
(spec/30_encoding.md R110). -/
def betweenSegments (s : State) : Bool := s.phase = .framing && !s.segOpen

/-! ### APPEND_BITS -/

/-- The body of APPEND_BITS (R161). -/
def appendBitsBody (n : BitVec 6) (s : State) : Except ErrCode State :=
  if !betweenSegments s then .error .invalidArgument
  else appendBits s.arg.toNat n.toNat s

/-- APPEND_BITS (R161). -/
def execAppendBits (n : BitVec 6) (s : State) : Host.Outcome State Fault Refusal :=
  command 0x20#8 (appendBitsBody n) s

/-! ### SA_HEADER -/

/-- The body of SA_HEADER (R163). -/
def saHeaderBody (parity : BitVec 8) (count : BitVec 5) (index : BitVec 4) (s : State) :
    Except ErrCode State :=
  if !betweenSegments s then .error .invalidArgument
  else if s.dataSeen || s.saDone then .error .invalidArgument
  else if ¬(index.toNat < count.toNat ∧ count.toNat ≤ 16) then .error .invalidArgument
  else do
    let s ← appendBits structuredAppendIndicator 4 s
    let s ← appendBits index.toNat 4 s
    let s ← appendBits (count.toNat - 1) 4 s
    let s ← appendBits parity.toNat 8 s
    .ok { s with saDone := true }

/-- SA_HEADER (R163). -/
def execSaHeader (parity : BitVec 8) (count : BitVec 5) (index : BitVec 4) (s : State) :
    Host.Outcome State Fault Refusal :=
  command 0x21#8 (saHeaderBody parity count index) s

/-! ### ECI -/

/-- The body of ECI (R166, R167). -/
def eciBody (value : BitVec 20) (s : State) : Except ErrCode State :=
  if !betweenSegments s then .error .invalidArgument
  else if value.toNat > 999999 then .error .invalidArgument
  else do
    let s ← appendBits eciIndicator 4 s
    let (designator, width) := eciDesignator value.toNat
    appendBits designator width s

/-- ECI (R166). -/
def execEci (value : BitVec 20) (s : State) : Host.Outcome State Fault Refusal :=
  command 0x22#8 (eciBody value) s

/-! ### SEG_BEGIN -/

/-- The one FNC1 indicator, between the first segment's mode indicator and its count (R178, R179). -/
def emitFnc1 (s : State) : Except ErrCode State :=
  match fnc1Indicator s.fnc1 with
  | none => .ok s
  | some indicator =>
    if s.fnc1Done then .ok s
    else do
      let s ← appendBits indicator 4 s
      .ok { s with fnc1Done := true }

/-- A segment of `count` characters begun: the segment state of R178. -/
def openSegment (mode : Mode) (count : BitVec 16) (s : State) : State :=
  { s with
    dataSeen := true
    segMode := mode
    remain := count
    pendN := 0
    pendVal := 0
    segOpen := count.toNat > 0 }

/-- The body of SEG_BEGIN (R178). -/
def segBeginBody (count : BitVec 16) (mode : Mode) (s : State) : Except ErrCode State :=
  if !betweenSegments s then .error .invalidArgument
  else
    let w := countWidth mode s.bucket.toNat
    if count.toNat ≥ 2 ^ w then .error .invalidArgument
    else do
      let s ← appendBits (modeIndicator mode) 4 s
      let s ← emitFnc1 s
      let s ← appendBits count.toNat w s
      .ok (openSegment mode count s)

/-- SEG_BEGIN (R178). -/
def execSegBegin (count : BitVec 16) (mode : Mode) (s : State) :
    Host.Outcome State Fault Refusal :=
  command 0x23#8 (segBeginBody count mode) s

/-! ### PUT -/

/-- `S_PEND_N <- n; S_PEND_VAL <- v`. -/
def hold (n v : Nat) (s : State) : State :=
  { s with pendN := BitVec.ofNat 2 n, pendVal := BitVec.ofNat 10 v }

/-- `numeric_put(d)` (R182). -/
def numericPut (d : Nat) (s : State) : Except ErrCode State :=
  let v := s.pendVal.toNat * 10 + d
  let n := s.pendN.toNat + 1
  if n = 3 then do
    let s ← appendBits v 10 s
    .ok (hold 0 0 s)
  else .ok (hold n v s)

/-- `alnum_put(k)` (R183). -/
def alnumPut (k : Nat) (s : State) : Except ErrCode State :=
  if s.pendN = 0 then .ok (hold 1 k s)
  else do
    let s ← appendBits (45 * s.pendVal.toNat + k) 11 s
    .ok (hold 0 0 s)

/-- The payload of one character value in a mode (R181 to R185). -/
def putValue (mode : Mode) (v : Nat) (s : State) : Except ErrCode State :=
  match mode with
  | .numeric => numericPut v s
  | .alphanumeric => alnumPut v s
  | .byte => appendBits v 8 s
  | .kanji => appendBits v 13 s

/-- The width in which a held group is flushed at the segment's end, if one is held (R186). -/
def flushWidth (mode : Mode) (held : Nat) : Option Nat :=
  match mode, held with
  | .numeric, 2 => some 7
  | .numeric, 1 => some 4
  | .alphanumeric, 1 => some 6
  | _, _ => none

/-- `segment_close()` (R186). -/
def segmentClose (s : State) : Except ErrCode State := do
  let s ← match flushWidth s.segMode s.pendN.toNat with
    | some w => appendBits s.pendVal.toNat w s
    | none => .ok s
  .ok { hold 0 0 s with segOpen := false }

/-- The body of PUT (R181). -/
def putBody (char : BitVec 16) (s : State) : Except ErrCode State :=
  if s.phase ≠ .framing ∨ s.segOpen = false then .error .invalidArgument
  else match charValue s.segMode char.toNat with
    | none => .error .incompatibleOverride
    | some v => do
      let s ← putValue s.segMode v s
      let s := { s with remain := s.remain - 1 }
      if s.remain = 0 then segmentClose s else .ok s

/-- PUT (R181). -/
def execPut (char : BitVec 16) (s : State) : Host.Outcome State Fault Refusal :=
  command 0x24#8 (putBody char) s

/-! ### FINISH -/

/-- The other pad byte (R193). -/
def otherPad (p : Nat) : Nat := if p = 0xEC then 0x11 else 0xEC

/-- The pad loop of R190 and R193, with a bound on its rounds: each appends a byte, so `S_DATA`
rounds reach the capacity. -/
def padLoop : Nat → Nat → State → Except ErrCode State
  | 0, _, s => .ok s
  | rounds + 1, p, s =>
    if s.bitLen.toNat < 8 * s.data.toNat then do
      let s ← appendBits p 8 s
      padLoop rounds (otherPad p) s
    else .ok s

/-- A codeword from eight bits, the first the most significant (spec/20_memory.md R89). -/
def packByte (bits : List Bool) : Byte :=
  bits.foldl (fun b bit => (b <<< 1) ||| (BitVec.ofBool bit).setWidth 8) 0

/-- The first `n` codewords of the bit buffer (R194, R89). A bit the buffer does not hold packs as 0;
after FINISH's appends it holds them all (log entry 18). -/
def packBytes : Nat → List Bool → List Byte
  | 0, _ => []
  | n + 1, bits => packByte ((bits ++ List.replicate 8 false).take 8) :: packBytes n (bits.drop 8)

/-- The body of FINISH (R190). -/
def finishBody (s : State) : Except ErrCode State :=
  if !betweenSegments s then .error .invalidArgument
  else do
    let cap := 8 * s.data.toNat
    let s ← appendBits 0 (min 4 (cap - s.bitLen.toNat)) s
    let s ← appendBits 0 ((8 - s.bitLen.toNat % 8) % 8) s
    let s ← padLoop s.data.toNat 0xEC s
    .ok { s with
      dataCw := overwrite s.dataCw (packBytes s.data.toNat s.bitBuf)
      phase := .padded }

/-- FINISH (R190). -/
def execFinish (s : State) : Host.Outcome State Fault Refusal := command 0x30#8 finishBody s

/-- The payload bits of `c` characters in a mode (R187). -/
def payloadBits (mode : Mode) (c : Nat) : Nat :=
  match mode with
  | .numeric => 10 * (c / 3) + [0, 4, 7].getD (c % 3) 0
  | .alphanumeric => 11 * (c / 2) + 6 * (c % 2)
  | .byte => 8 * c
  | .kanji => 13 * c

/-- `seg_bits(m, c)` (R187): the length of one segment, `fn1` being 4 if it carries the FNC1
indicator and 0 otherwise. -/
def segmentBits (mode : Mode) (bucket fn1 c : Nat) : Nat :=
  4 + fn1 + countWidth mode bucket + payloadBits mode c

end Sys2Proof.Machine
end

