-- ==== Sys2Proof/Machine/Placement.lean ====
section
/-! DEFINITION. The matrix builder: function patterns, version and format bits, the zig-zag path,
PLACE (spec/43_matrix_builder.md). -/

namespace Sys2Proof.Machine

/-! ### The drawing primitive -/

/-- One use of `set_fn(x, y, dark)`. -/
structure Draw where
  x : Nat
  y : Nat
  dark : Bool
deriving DecidableEq, Repr

/-- `set_fn(x, y, dark)` (R240). -/
def setFn (m : Matrix) (d : Draw) : Matrix where
  mod := setCell m.mod d.x d.y d.dark
  fn := setCell m.fn d.x d.y true

/-- A list of draws, in order: a later one overwrites an earlier one (R240, R241). -/
def drawAll (draws : List Draw) (m : Matrix) : Matrix := draws.foldl setFn m

/-! ### Timing, finders, alignment -/

/-- The timing lines (R242). -/
def timingDraws (side : Nat) : List Draw :=
  (List.range side).flatMap fun i => [⟨6, i, i % 2 == 0⟩, ⟨i, 6, i % 2 == 0⟩]

/-- The integers -r .. r, in order. -/
def span (r : Nat) : List Int := (List.range (2 * r + 1)).map fun (i : Nat) => (i : Int) - (r : Int)

/-- Chebyshev distance from the centre. -/
def chebyshev (dx dy : Int) : Nat := max dx.natAbs dy.natAbs

/-- The square pattern of radius r centred at (cx, cy), clipped to the symbol, a cell's colour given
by its Chebyshev distance (R243, R246). -/
def squareDraws (side r : Nat) (dark : Nat → Bool) (cx cy : Nat) : List Draw :=
  (span r).flatMap fun dy => (span r).filterMap fun dx =>
    let x := (cx : Int) + dx
    let y := (cy : Int) + dy
    if 0 ≤ x ∧ x < side ∧ 0 ≤ y ∧ y < side then
      some ⟨x.toNat, y.toNat, dark (chebyshev dx dy)⟩
    else none

/-- The three finders with their separators (R243). -/
def finderDraws (side : Nat) : List Draw :=
  [(3, 3), (side - 4, 3), (3, side - 4)].flatMap fun (cx, cy) =>
    squareDraws side 4 (fun d => d != 2 && d != 4) cx cy

/-- The number of alignment positions of a version from 2 on (R244). -/
def alignCount (v : Nat) : Nat := v / 7 + 2

/-- The step between the inner alignment positions (R244). -/
def alignStep (v : Nat) : Nat :=
  let n := alignCount v
  if v = 32 then 26 else (4 * v + 2 * n + 1) / (2 * n - 2) * 2

/-- `align_positions(v)` (R244): 6, then the positions counted down from S - 7. -/
def alignPositions (v : Nat) : List Nat :=
  if v = 1 then []
  else 6 :: (List.range (alignCount v - 1)).map fun i =>
    sideLength v - 7 - (alignCount v - 2 - i) * alignStep v

/-- The centres of the alignment patterns: every pair but the three inside finders (R246). -/
def alignCentres (v : Nat) : List (Nat × Nat) :=
  let p := alignPositions v
  let n := p.length
  (List.range n).flatMap fun i => (List.range n).filterMap fun j =>
    if (i = 0 ∧ j = 0) ∨ (i = 0 ∧ j = n - 1) ∨ (i = n - 1 ∧ j = 0) then none
    else some (p.getD i 0, p.getD j 0)

/-- The alignment patterns (R246). -/
def alignmentDraws (side v : Nat) : List Draw :=
  (alignCentres v).flatMap fun (cx, cy) => squareDraws side 2 (fun d => d != 1) cx cy

/-! ### Format and version information -/

/-- `rounds` rounds of the bit-serial division by `poly`, whose leading bit is bit `top + 1`
(R248, R250). -/
def polyRemainder (poly top : Nat) : Nat → Nat → Nat
  | 0, rem => rem
  | rounds + 1, rem =>
    polyRemainder poly top rounds ((rem <<< 1) ^^^ (if rem.testBit top then poly else 0))

/-- `version_bits(v)` (R248). -/
def versionBits (v : Nat) : Nat := (v <<< 12) ||| polyRemainder 0x1F25 11 12 v

/-- The two version blocks; none below version 7 (R249). -/
def versionDraws (side v : Nat) : List Draw :=
  if v < 7 then []
  else (List.range 18).flatMap fun i =>
    let a := side - 11 + i % 3
    let c := i / 3
    [⟨a, c, (versionBits v).testBit i⟩, ⟨c, a, (versionBits v).testBit i⟩]

/-- `formposbits(ecl, mask)` (R250). -/
def formatBits (ecl : Level) (mask : Nat) : Nat :=
  let data := (ecl.code.toNat <<< 3) ||| mask
  ((data <<< 10) ||| polyRemainder 0x537 9 10 data) ^^^ 0x5412

/-- The dark module (R252). -/
def darkModuleDraw (side : Nat) : Draw := ⟨8, side - 8, true⟩

/-- `draw_format(ecl, mask)` (R251): copy 1 around the top-left finder, copy 2 split between the
other two, and the dark module. The spec marks this mapping as general knowledge (log entry 15). -/
def formatDraws (side : Nat) (ecl : Level) (mask : Nat) : List Draw :=
  let b := formatBits ecl mask
  ([0, 1, 2, 3, 4, 5].map fun i => ⟨8, i, b.testBit i⟩) ++
  [⟨8, 7, b.testBit 6⟩, ⟨8, 8, b.testBit 7⟩, ⟨7, 8, b.testBit 8⟩] ++
  ([9, 10, 11, 12, 13, 14].map fun i => ⟨14 - i, 8, b.testBit i⟩) ++
  ([0, 1, 2, 3, 4, 5, 6, 7].map fun i => ⟨side - 1 - i, 8, b.testBit i⟩) ++
  ([8, 9, 10, 11, 12, 13, 14].map fun i => ⟨8, side - 15 + i, b.testBit i⟩) ++
  [darkModuleDraw side]

/-- `draw_function_patterns()` (R241), the format reserved with mask 0 (R247). -/
def functionDraws (side v : Nat) (ecl : Level) : List Draw :=
  timingDraws side ++ finderDraws side ++ alignmentDraws side v ++ formatDraws side ecl 0 ++
    versionDraws side v ++ [darkModuleDraw side]

/-! ### Data placement -/

/-- The right columns of the pairs, from `right` leftwards, the timing column skipped (R253). The
first argument bounds the loop; the side length is enough. -/
def rightColumns : Nat → Nat → List Nat
  | 0, _ => []
  | rounds + 1, right =>
    if right < 1 then []
    else
      let r := if right = 6 then 5 else right
      r :: rightColumns rounds (r - 2)

/-- The zig-zag path: every cell (x, y) `place_data` visits, in order (R253). -/
def zigzag (side : Nat) : List (Nat × Nat) :=
  (rightColumns side (side - 1)).flatMap fun right =>
    (List.range side).flatMap fun vert =>
      let y := if (right + 1) &&& 2 = 0 then side - 1 - vert else vert
      [(right, y), (right - 1, y)]

/-- Bit i of the codeword stream, most significant bit of each byte first (spec/20_memory.md R90). -/
def streamBit (stream : List Byte) (i : Nat) : Bool := (entry stream (i / 8)).getLsbD (7 - i % 8)

/-- One visited cell of `place_data`: the next stream bit if the cell is free and bits remain
(R253). -/
def placeBit (stream : List Byte) (nbits : Nat) (acc : Matrix × Nat)
    (pos : Nat × Nat) : Matrix × Nat :=
  if cell acc.1.fn pos.1 pos.2 = false ∧ acc.2 < nbits then
    ({ acc.1 with mod := setCell acc.1.mod pos.1 pos.2 (streamBit stream acc.2) }, acc.2 + 1)
  else acc

/-- `place_data()` (R253): the matrix after it and the number of bits placed. -/
def placeData (side raw : Nat) (stream : List Byte) (m : Matrix) : Matrix × Nat :=
  (zigzag side).foldl (placeBit stream (8 * raw)) (m, 0)

/-- The S by S square cleared (R255). -/
def clearSquare (side : Nat) (m : Matrix) : Matrix where
  mod := mapSquare (fun _ _ _ => false) side m.mod
  fn := mapSquare (fun _ _ _ => false) side m.fn

/-- The body of PLACE (R255), with the assertion of R256. -/
def placeBody (s : State) : Except ErrCode State :=
  if s.phase ≠ .interleaved then .error .invalidArgument
  else
    let side := s.size.toNat
    let m := drawAll (functionDraws side s.version.toNat s.ecl) (clearSquare side s.matrix)
    let placed := placeData side s.raw.toNat s.stream m
    if placed.2 ≠ 8 * s.raw.toNat then .error .internal
    else .ok { s with matrix := placed.1, phase := .placed }

/-- PLACE (R255). -/
def execPlace (s : State) : Host.Outcome State Fault Refusal := command 0x32#8 placeBody s

end Sys2Proof.Machine
end

