-- ==== Sys2Proof/Machine/Masking.lean ====
section
/-! DEFINITION. The masker: the eight masks, the four-term penalty, the selection, MASK
(spec/44_masker.md). -/

namespace Sys2Proof.Machine

/-! ### Masks -/

/-- The mask predicates (R281); ids are 0..7. -/
def maskAt (k x y : Nat) : Bool :=
  match k with
  | 0 => (x + y) % 2 == 0
  | 1 => y % 2 == 0
  | 2 => x % 3 == 0
  | 3 => (x + y) % 3 == 0
  | 4 => (x / 3 + y / 2) % 2 == 0
  | 5 => (x * y) % 2 + (x * y) % 3 == 0
  | 6 => ((x * y) % 2 + (x * y) % 3) % 2 == 0
  | _ => ((x + y) % 2 + (x * y) % 3) % 2 == 0

/-- `apply_mask(k)` (R280, R282): the free cells of the square where the mask holds are inverted. -/
def applyMask (k side : Nat) (m : Matrix) : Matrix where
  mod := mapSquare (fun x y b => if !cell m.fn x y && maskAt k x y then !b else b) side m.mod
  fn := m.fn

/-! ### Penalty -/

/-- The sliding history of seven run lengths, newest first (R286). -/
structure RunHistory where
  h0 : Nat
  h1 : Nat
  h2 : Nat
  h3 : Nat
  h4 : Nat
  h5 : Nat
  h6 : Nat
deriving DecidableEq, Repr

/-- All zeros: the history at the start of a line (R286). -/
def emptyHistory : RunHistory := ⟨0, 0, 0, 0, 0, 0, 0⟩

/-- `hist_push(L, h)` (R286): the line's first run gets the light border of width S. -/
def histPush (side len : Nat) (h : RunHistory) : RunHistory :=
  ⟨if h.h0 = 0 then len + side else len, h.h0, h.h1, h.h2, h.h3, h.h4, h.h5⟩

/-- The dark-light-dark-light-dark core of a finder-like pattern, ratio 1:1:3:1:1 (R287). -/
def patternCore (h : RunHistory) : Bool :=
  h.h1 > 0 && h.h2 == h.h1 && h.h3 == 3 * h.h1 && h.h4 == h.h1 && h.h5 == h.h1

/-- `count_patterns(h)` (R287): once for each side with a light margin. -/
def countPatterns (h : RunHistory) : Nat :=
  (if patternCore h && h.h0 ≥ 4 * h.h1 && h.h6 ≥ h.h1 then 1 else 0) +
  (if patternCore h && h.h6 ≥ 4 * h.h1 && h.h0 ≥ h.h1 then 1 else 0)

/-- `terminate_and_count` (R288). -/
def terminateAndCount (side : Nat) (dark : Bool) (len : Nat) (h : RunHistory) : Nat :=
  if dark then countPatterns (histPush side side (histPush side len h))
  else countPatterns (histPush side (len + side) h)

/-- The state of one line's scan (R289): the colour and length of the open run, the history, and the
line's shares of P1 and P3. -/
structure LineScan where
  dark : Bool
  len : Nat
  hist : RunHistory
  p1 : Nat
  p3 : Nat
deriving DecidableEq, Repr

/-- The start of a line: a light run of length 0 (R289). -/
def lineStart : LineScan := ⟨false, 0, emptyHistory, 0, 0⟩

/-- One cell of the line scan (R285, R289), weights N1 = 3 and N3 = 40 (R284). -/
def scanCell (side : Nat) (l : LineScan) (c : Bool) : LineScan :=
  if c = l.dark then
    let len := l.len + 1
    { l with len := len, p1 := l.p1 + (if len = 5 then 3 else if len > 5 then 1 else 0) }
  else
    let hist := histPush side l.len l.hist
    { l with
      dark := c
      len := 1
      hist := hist
      p3 := l.p3 + (if l.dark then 0 else countPatterns hist * 40) }

/-- The scan of the cells of a line, before its end. -/
def scanLine (side : Nat) (cells : List Bool) : LineScan := cells.foldl (scanCell side) lineStart

/-- A line's shares of P1 and of P3, its end counted (R288, R289). -/
def linePenalty (side : Nat) (cells : List Bool) : Nat :=
  let l := scanLine side cells
  l.p1 + (l.p3 + terminateAndCount side l.dark l.len l.hist * 40)

/-- Row a of the symbol. -/
def rowCells (side : Nat) (g : Grid) (a : Nat) : List Bool := (List.range side).map fun b => cell g b a

/-- Column a of the symbol. -/
def columnCells (side : Nat) (g : Grid) (a : Nat) : List Bool :=
  (List.range side).map fun b => cell g a b

/-- P1 + P3: the rows and the columns (R289). -/
def runPenalty (side : Nat) (g : Grid) : Nat :=
  ((List.range side).map fun a => linePenalty side (rowCells side g a)).sum +
  ((List.range side).map fun a => linePenalty side (columnCells side g a)).sum

/-- Whether the 2 by 2 window at (x, y) has one colour (R290). -/
def sameBlock (g : Grid) (x y : Nat) : Bool :=
  cell g x y == cell g (x + 1) y && cell g (x + 1) y == cell g x (y + 1) &&
    cell g x (y + 1) == cell g (x + 1) (y + 1)

/-- P2 (R290), N2 = 3: every window counts. -/
def blockPenalty (side : Nat) (g : Grid) : Nat :=
  3 * ((List.range (side - 1)).map fun y =>
    (List.range (side - 1)).countP fun x => sameBlock g x y).sum

/-- `d`, the dark cells of the symbol (R291, R296). -/
def darkCount (side : Nat) (g : Grid) : Nat :=
  ((List.range side).map fun y => (List.range side).countP fun x => cell g x y).sum

/-- The ceiling of R291, `k + 1`: `ceil(|20 d - 10 t| / t)`. -/
def balanceCeiling (side d : Nat) : Nat :=
  let t := side * side
  ((20 * (d : Int) - 10 * (t : Int)).natAbs + (t - 1)) / t

/-- `PEN_BOUND` (R298). -/
def penaltyBound : Nat := 5195928

/-- `penalty()` (R284) of the S by S symbol, N4 = 10, with the assertions of R293: `0 ≤ k ≤ 9` and
the bound. -/
def penalty (side : Nat) (g : Grid) : Except ErrCode Nat :=
  let ceiling := balanceCeiling side (darkCount side g)
  let total := runPenalty side g + blockPenalty side g + (ceiling - 1) * 10
  if ¬(1 ≤ ceiling ∧ ceiling ≤ 10) then .error .internal
  else if total > penaltyBound then .error .internal
  else .ok total

/-! ### Selection and finalisation -/

/-- One round of `auto_select`: apply, score, undo (R294). -/
def scoreMask (s : State) (k : Nat) : Except ErrCode State :=
  let side := s.size.toNat
  let masked := applyMask k side s.matrix
  match penalty side masked.mod with
  | .error c => .error c
  | .ok p => .ok { s with
      pen := s.pen.setIfInBounds k (BitVec.ofNat 32 p)
      matrix := applyMask k side masked }

/-- The rounds of `auto_select` for the listed masks, in order. -/
def scoreMasks : List Nat → State → Except ErrCode State
  | [], s => .ok s
  | k :: ks, s =>
    match scoreMask s k with
    | .error c => .error c
    | .ok s => scoreMasks ks s

/-- `S_PEN[k]`. -/
def penaltyOf (pen : Vector Word 8) (k : Nat) : Nat := (pen[k]?.getD 0).toNat

/-- The smallest k whose penalty is the least of the eight (R294). -/
def bestMask (pen : Vector Word 8) : Nat :=
  ((List.range 8).find? fun k =>
    (List.range 8).all fun j => penaltyOf pen k ≤ penaltyOf pen j).getD 0

/-- The mask to apply, with the state after choosing it: `auto_select` or the fixed mask (R294,
R296, R297). -/
def chooseMask (s : State) : Except ErrCode (State × Nat) :=
  if s.maskAuto then
    match scoreMasks (List.range 8) s with
    | .error c => .error c
    | .ok s => .ok ({ s with penValid := 0xFF#8 }, bestMask s.pen)
  else .ok (s, s.maskId.toNat)

/-- The final matrix: the mask applied, the format bits of the level and the mask, the version bits
(R296). -/
def finalMatrix (side v : Nat) (ecl : Level) (best : Nat) (m : Matrix) : Matrix :=
  drawAll (formatDraws side ecl best ++ versionDraws side v) (applyMask best side m)

/-- The body of MASK (R296). -/
def maskBody (s : State) : Except ErrCode State :=
  if s.phase ≠ .placed then .error .invalidArgument
  else match chooseMask s with
    | .error c => .error c
    | .ok (s, best) =>
      let side := s.size.toNat
      let m := finalMatrix side s.version.toNat s.ecl best s.matrix
      .ok { s with
        matrix := m
        chosen := BitVec.ofNat 3 best
        dark := BitVec.ofNat 15 (darkCount side m.mod)
        resultValid := true
        phase := .done }

/-- MASK (R296). -/
def execMask (s : State) : Host.Outcome State Fault Refusal := command 0x33#8 maskBody s

end Sys2Proof.Machine
end

