-- ==== Sys2Proof/Machine/Run.lean ====
section
/-! DEFINITION. RUN (spec/40_control.md R140): FINISH, ECC, PLACE and MASK as one atomic step. -/

namespace Sys2Proof.Machine

/-- The body of RUN: the four bodies in order; any failure is the whole RUN's (R140). -/
def runBody (s : State) : Except ErrCode State := do
  let s ← finishBody s
  let s ← eccBody s
  let s ← placeBody s
  maskBody s

/-- RUN (R140). -/
def execRun (s : State) : Host.Outcome State Fault Refusal := command 0x3F#8 runBody s

end Sys2Proof.Machine
end

