-- ==== Sys2Proof/Machine/Dispatch.lean ====
section
/-! DEFINITION. The meaning of each command: one arm per constructor of `Instr`. -/

namespace Sys2Proof.Machine

def exec (i : Instr) (s : State) : Host.Outcome State Fault Refusal :=
  match i with
  | .nop _ => Sys2Proof.Machine.execNop s
  | .softReset _ => Sys2Proof.Machine.execSoftReset s
  | .config fnc1 maskAuto maskId ecl version => Sys2Proof.Machine.execConfig fnc1 maskAuto maskId ecl version s
  | .appendBits n => Sys2Proof.Machine.execAppendBits n s
  | .saHeader parity count index => Sys2Proof.Machine.execSaHeader parity count index s
  | .eci value => Sys2Proof.Machine.execEci value s
  | .segBegin count mode => Sys2Proof.Machine.execSegBegin count mode s
  | .put char => Sys2Proof.Machine.execPut char s
  | .finish => Sys2Proof.Machine.execFinish s
  | .ecc => Sys2Proof.Machine.execEcc s
  | .place => Sys2Proof.Machine.execPlace s
  | .mask => Sys2Proof.Machine.execMask s
  | .run => Sys2Proof.Machine.execRun s

end Sys2Proof.Machine
end

