-- ==== Sys2Proof/Machine/Flags.lean ====
section
/-! DEFINITION. QRC has no condition codes; its status bits are the fields of STATUS and RESULT
(spec/10_state.md R57). The host's views of the state, field by field (R59 to R75), and the two
readback windows (spec/20_memory.md R86, R87). -/

namespace Sys2Proof.Machine

/-- The code of `S_PHASE` (R32). -/
def Phase.code : Phase → BitVec 3
  | .idle => 0
  | .framing => 1
  | .padded => 2
  | .interleaved => 3
  | .placed => 4
  | .done => 5
  | .error => 7

/-- The code of `S_ERR` (spec/60_exceptions.md R320). -/
def ErrCode.code : ErrCode → BitVec 4
  | .noError => 0
  | .invalidArgument => 1
  | .incompatibleOverride => 2
  | .dataTooLong => 3
  | .invalidEciEscape => 4
  | .internal => 5

/-- The code of `S_FNC1` (R38). -/
def Fnc1.code : Fnc1 → BitVec 2
  | .absent => 0
  | .first => 1
  | .second => 2

/-- `ID` (R59). -/
def idWord : Word := 0x51520007#32

/-- `STATUS` (R61). -/
def statusWord (s : State) : Word :=
  0#13 ++ BitVec.ofBool s.dataSeen ++ BitVec.ofBool s.saDone ++ BitVec.ofBool s.fnc1Done ++
    s.errOp ++ s.err.code ++ BitVec.ofBool s.segOpen ++ s.phase.code

/-- `CFG` (R62). -/
def cfgWord (s : State) : Word :=
  0#18 ++ s.fnc1.code ++ BitVec.ofBool s.maskAuto ++ s.maskId ++ s.ecl.code ++ s.version

/-- `GEOM0` (R63). -/
def geom0Word (s : State) : Word := 0#6 ++ s.bucket ++ s.eccLen ++ s.blocks ++ s.size

/-- `GEOM1` (R64). -/
def geom1Word (s : State) : Word := 0#4 ++ s.data ++ 0#4 ++ s.raw

/-- `GEOM2` (R65). -/
def geom2Word (s : State) : Word := 0#17 ++ s.rawBits

/-- `BITLEN` (R66). -/
def bitLenWord (s : State) : Word := 0#17 ++ s.bitLen

/-- `SEG` (R67). -/
def segWord (s : State) : Word := s.remain ++ 0#2 ++ s.pendVal ++ s.pendN ++ s.segMode.code

/-- `RESULT` (R68). -/
def resultWord (s : State) : Word :=
  0#16 ++ s.penValid ++ 0#4 ++ BitVec.ofBool s.resultValid ++ s.chosen

/-- `DARK` (R69). -/
def darkWord (s : State) : Word := 0#17 ++ s.dark

/-- `MOD_ADDR` (R74). -/
def modAddrWord (s : State) : Word := 0#16 ++ s.modY ++ s.modX

/-- `CW_ADDR` (R74). -/
def cwAddrWord (s : State) : Word := 0#20 ++ s.cwIdx

/-- The `MOD_DATA` window (R75, spec/20_memory.md R86): open in DONE, inside the symbol. -/
def modDataWord (s : State) : Word :=
  let x := s.modX.toNat
  let y := s.modY.toNat
  if s.phase = .done ∧ x < s.size.toNat ∧ y < s.size.toNat then
    0#30 ++ BitVec.ofBool (cell s.matrix.fn x y) ++ BitVec.ofBool (cell s.matrix.mod x y)
  else 0

/-- Whether the `CW_DATA` window shows the interleaved stream in this phase (R87). -/
def Phase.showsStream : Phase → Bool
  | .interleaved => true
  | .placed => true
  | .done => true
  | .idle => false
  | .framing => false
  | .padded => false
  | .error => false

/-- The `CW_DATA` window (R75, spec/20_memory.md R87). -/
def cwDataWord (s : State) : Word :=
  let i := s.cwIdx.toNat
  if s.phase = .padded ∧ i < s.data.toNat then (entry s.dataCw i).setWidth 32
  else if s.phase.showsStream ∧ i < s.raw.toNat then (entry s.stream i).setWidth 32
  else 0

end Sys2Proof.Machine
end

