-- ==== Sys2Proof/Machine/Bus.lean ====
section
/-! DEFINITION. The register window and the host's accesses to it (spec/20_memory.md R80 to R87,
spec/10_state.md R58, spec/40_control.md R130, R134 to R138), the reset input
(spec/70_reset_and_hazards.md R350), and the assembler's pseudo-instructions (spec/30_encoding.md
R114, R115). -/

namespace Sys2Proof.Machine

/-- The registers of the map (R58). -/
inductive Reg where
  | id | cmd | arg | status | cfg | geom0 | geom1 | geom2 | bitLen | seg | result | dark
  | pen (k : Fin 8)
  | modAddr | modData | cwAddr | cwData
deriving DecidableEq, Repr

/-- The byte offset of a register (R58). -/
def Reg.offset : Reg → Nat
  | .id => 0x000
  | .cmd => 0x004
  | .arg => 0x008
  | .status => 0x00C
  | .cfg => 0x010
  | .geom0 => 0x014
  | .geom1 => 0x018
  | .geom2 => 0x01C
  | .bitLen => 0x020
  | .seg => 0x024
  | .result => 0x028
  | .dark => 0x02C
  | .pen k => 0x040 + 4 * k.val
  | .modAddr => 0x060
  | .modData => 0x064
  | .cwAddr => 0x068
  | .cwData => 0x06C

/-- The register at a byte offset; none at a reserved one (R58). -/
def registerAt (offset : Nat) : Option Reg :=
  match offset with
  | 0x000 => some .id
  | 0x004 => some .cmd
  | 0x008 => some .arg
  | 0x00C => some .status
  | 0x010 => some .cfg
  | 0x014 => some .geom0
  | 0x018 => some .geom1
  | 0x01C => some .geom2
  | 0x020 => some .bitLen
  | 0x024 => some .seg
  | 0x028 => some .result
  | 0x02C => some .dark
  | 0x040 => some (.pen 0)
  | 0x044 => some (.pen 1)
  | 0x048 => some (.pen 2)
  | 0x04C => some (.pen 3)
  | 0x050 => some (.pen 4)
  | 0x054 => some (.pen 5)
  | 0x058 => some (.pen 6)
  | 0x05C => some (.pen 7)
  | 0x060 => some .modAddr
  | 0x064 => some .modData
  | 0x068 => some .cwAddr
  | 0x06C => some .cwData
  | _ => none

/-- What a read of a register returns (R59 to R75, R137); CMD reads 0 (R60). -/
def readReg (s : State) : Reg → Word
  | .id => idWord
  | .cmd => 0
  | .arg => s.arg
  | .status => statusWord s
  | .cfg => cfgWord s
  | .geom0 => geom0Word s
  | .geom1 => geom1Word s
  | .geom2 => geom2Word s
  | .bitLen => bitLenWord s
  | .seg => segWord s
  | .result => resultWord s
  | .dark => darkWord s
  | .pen k => s.pen[k.val]
  | .modAddr => modAddrWord s
  | .modData => modDataWord s
  | .cwAddr => cwAddrWord s
  | .cwData => cwDataWord s

/-- Whether an access is one QRC admits: 4 bytes wide at a multiple of 4 (R83). -/
def admitted (offset width : Nat) : Bool := width == 4 && offset % 4 == 0

/-- The word a bus read returns: 0 for an access that is not admitted (R83) and at a reserved offset
(R137). -/
def busRead (offset width : Nat) (s : State) : Word :=
  if admitted offset width then
    match registerAt offset with
    | some r => readReg s r
    | none => 0
  else 0

/-- `command_step(w)` (R130): the instruction the word is, or *InvalidArgument* for a word that is
none (spec/30_encoding.md R111), which ERROR ignores like any command. -/
def commandStep (w : Word) (s : State) : Host.Outcome State Fault Refusal :=
  match decode w with
  | .ok i => exec i s
  | .error _ => command (opcodeOf w) (fun _ => .error .invalidArgument) s

/-- A write to a register (R134 to R138): four registers take it, the others ignore it. -/
def writeReg (r : Reg) (v : Word) (s : State) : Host.Outcome State Fault Refusal :=
  match r with
  | .cmd => commandStep v s
  | .arg => .next { s with arg := v }
  | .modAddr => .next { s with modX := v.extractLsb' 0 8, modY := v.extractLsb' 8 8 }
  | .cwAddr => .next { s with cwIdx := v.extractLsb' 0 12 }
  | .id => .next s
  | .status => .next s
  | .cfg => .next s
  | .geom0 => .next s
  | .geom1 => .next s
  | .geom2 => .next s
  | .bitLen => .next s
  | .seg => .next s
  | .result => .next s
  | .dark => .next s
  | .pen _ => .next s
  | .modData => .next s
  | .cwData => .next s

/-- A bus write: ignored if it is not admitted (R83) or at a reserved offset (R138). -/
def busWrite (offset width : Nat) (v : Word) (s : State) : Host.Outcome State Fault Refusal :=
  if admitted offset width then
    match registerAt offset with
    | some r => writeReg r v s
    | none => .next s
  else .next s

/-- One host event. An access outside the window selects nothing of QRC's: the model stops (log
entry 6). -/
def hostEvent (e : HostEvent) (s : State) : Host.Outcome State Fault Refusal :=
  match e with
  | .read offset width =>
    if offset < Config.windowBytes then .next { s with readData := some (busRead offset width s) }
    else .fault .outsideWindow
  | .write offset width v =>
    if offset < Config.windowBytes then busWrite offset width v s else .fault .outsideWindow
  | .rst => .next (resetElements s)

/-- The oldest pending event happens; with none pending the core waits and nothing changes
(spec/70_reset_and_hazards.md R352, spec/60_exceptions.md R336; log entry 3). -/
def nextEvent (s : State) : Host.Outcome State Fault Refusal :=
  match s.pending with
  | [] => .next s
  | e :: rest => hostEvent e { s with pending := rest }

/-! ### The assembler's lines (R114, R115) -/

/-- `WR <reg>, <value>`. -/
def wr (r : Reg) (value : Word) : HostEvent := .write r.offset 4 value

/-- `RD <reg>`. -/
def rd (r : Reg) : HostEvent := .read r.offset 4

/-- A command mnemonic stands for `WR CMD, <word>`. -/
def cmd (i : Instr) : HostEvent := wr .cmd (encode i)

/-- `APPEND <value>, <n>`. -/
def pseudoAppend (value : Word) (n : BitVec 6) : List HostEvent := [wr .arg value, cmd (.appendBits n)]

/-- `SEGMENT <mode>, <characters>`. The spec gives no meaning to more characters than the 16-bit COUNT
holds; there the length wraps modulo 2^16 (DESIGN CHOICE, log entry 20). -/
def pseudoSegment (mode : Mode) (chars : List (BitVec 16)) : List HostEvent :=
  cmd (.segBegin (BitVec.ofNat 16 chars.length) mode) :: chars.map fun c => cmd (.put c)

/-- `READ_MODULE <x>, <y>`. -/
def pseudoReadModule (x y : BitVec 8) : List HostEvent := [wr .modAddr (0#16 ++ y ++ x), rd .modData]

/-- `READ_CW <i>`. -/
def pseudoReadCw (i : BitVec 12) : List HostEvent := [wr .cwAddr (0#20 ++ i), rd .cwData]

end Sys2Proof.Machine
end

