-- ==== Sys2Proof/Machine/Step.lean ====
section
/-! DEFINITION. One step of the machine: the oldest host event (spec/20_memory.md R92,
spec/00_scope.md R12). -/

namespace Sys2Proof.Machine

/-- One step. -/
def step (s : State) : Host.Outcome State Fault Refusal := nextEvent s

/-- `s` with a write of the word to `CMD` as its oldest pending host event: QRC fetches nothing, so a
command comes from the host (spec/10_state.md R56; log entry 7). -/
def State.withFetchWord (s : State) (nbits w : Nat) : State :=
  { s with pending := wr .cmd (BitVec.ofNat 32 (w % 2 ^ nbits)) :: s.pending }

end Sys2Proof.Machine
end

