-- ==== Sys2Proof/Safety.lean ====
section
/-! DEFINITION. How a run ends and what it shows (spec/70_reset_and_hazards.md R360), and the
invariants of the machine in the terms claims use (spec/10_state.md R34 to R52). -/

namespace Sys2Proof.Machine

/-! ### The end of a run -/

/-- What `READ_MODULE x, y` returns (spec/30_encoding.md R115). -/
def moduleRead (s : State) (x y : Nat) : Word :=
  busRead Reg.modData.offset 4 { s with modX := BitVec.ofNat 8 x, modY := BitVec.ofNat 8 y }

/-- The observation of a successful run: RESULT, DARK, CFG, GEOM0 and every module (R360 (a)). -/
structure Observation where
  result : Word
  dark : Word
  cfg : Word
  geom0 : Word
  modules : List (List Word)
deriving DecidableEq, Repr

/-- The three ways a run ends, each with what it shows (R360). ERROR is never a successful end
(spec/60_exceptions.md R329). -/
inductive RunEnd where
  /-- (a): the finished symbol -/
  | success (shown : Observation)
  /-- (b): `S_ERR` and `S_ERR_OP` -/
  | failure (err : ErrCode) (errOp : Byte)
  /-- (c): no symbol -/
  | incomplete
deriving DecidableEq, Repr

/-- What the host reads of the symbol; a run shows it only in DONE (R360 (a)). -/
def State.symbolShown (s : State) : Observation where
  result := busRead Reg.result.offset 4 s
  dark := busRead Reg.dark.offset 4 s
  cfg := busRead Reg.cfg.offset 4 s
  geom0 := busRead Reg.geom0.offset 4 s
  modules := (List.range s.size.toNat).map fun y =>
    (List.range s.size.toNat).map fun x => moduleRead s x y

/-- How a run that stops in this state has ended, and what it shows (R360). -/
def State.runEnd (s : State) : RunEnd :=
  match s.phase with
  | .done => .success s.symbolShown
  | .error => .failure s.err s.errOp
  | .idle => .incomplete
  | .framing => .incomplete
  | .padded => .incomplete
  | .interleaved => .incomplete
  | .placed => .incomplete

/-! ### The state after reset -/

/-- Every element that spec/70_reset_and_hazards.md R351 gives a value holds it. The four arrays, whose
contents it leaves unspecified, are not named. -/
abbrev AtReset (s : State) : Prop :=
  s.phase = .idle ∧ s.err = .noError ∧ s.errOp = 0 ∧
  s.version = 0 ∧ s.ecl.code = 0 ∧ s.maskId = 0 ∧ s.maskAuto = false ∧ s.fnc1 = .absent ∧
  s.size = 0 ∧ s.bucket = 0 ∧ s.rawBits = 0 ∧ s.raw = 0 ∧ s.blocks = 0 ∧ s.eccLen = 0 ∧ s.data = 0 ∧
  s.arg = 0 ∧ s.bitBuf = [] ∧ s.bitLen = 0 ∧
  s.segOpen = false ∧ s.segMode = .numeric ∧ s.remain = 0 ∧ s.pendN = 0 ∧ s.pendVal = 0 ∧
  s.fnc1Done = false ∧ s.saDone = false ∧ s.dataSeen = false ∧
  s.pen = Vector.replicate 8 0 ∧ s.penValid = 0 ∧ s.chosen = 0 ∧ s.resultValid = false ∧ s.dark = 0 ∧
  s.modX = 0 ∧ s.modY = 0 ∧ s.cwIdx = 0

/-! ### Invariants -/

/-- The geometry of the configured version and level, in every element's width (R40 to R44). -/
abbrev Configured (s : State) : Prop :=
  1 ≤ s.version.toNat ∧ s.version.toNat ≤ 40 ∧
  s.size.toNat = sideLength s.version.toNat ∧
  s.bucket.toNat = versionBucket s.version.toNat ∧
  s.rawBits.toNat = rawModules s.version.toNat ∧
  s.raw.toNat = rawModules s.version.toNat / 8 ∧
  s.blocks.toNat = blockCount s.ecl s.version.toNat ∧
  s.eccLen.toNat = eccLength s.ecl s.version.toNat ∧
  s.data.toNat = dataCodewords s.ecl s.version.toNat

/-- No configuration latched: the configuration and geometry elements at 0 (R62 to R65). -/
abbrev Unconfigured (s : State) : Prop :=
  s.version = 0 ∧ s.ecl = .m ∧ s.maskId = 0 ∧ s.maskAuto = false ∧ s.fnc1 = .absent ∧
  s.size = 0 ∧ s.bucket = 0 ∧ s.rawBits = 0 ∧ s.raw = 0 ∧ s.blocks = 0 ∧ s.eccLen = 0 ∧ s.data = 0

/-- Configuration follows the phase (R34, R35, R37). In ERROR it is the one of the state before. -/
abbrev ConfigOk (s : State) : Prop :=
  (s.phase = .idle → Unconfigured s) ∧
  (s.phase ≠ .idle → s.phase ≠ .error → Configured s) ∧
  (Unconfigured s ∨ Configured s) ∧
  (s.maskAuto = true → s.maskId = 0)

/-- `S_BITLEN` is the buffer's length and within the capacity (R45). -/
abbrev BufferOk (s : State) : Prop :=
  s.bitLen.toNat = s.bitBuf.length ∧ s.bitLen.toNat ≤ 8 * s.data.toNat

/-- What a mode's held characters can be (R46): an incomplete group of digits or pair, else nothing. -/
def heldOk (mode : Mode) (n v : Nat) : Bool :=
  match mode with
  | .numeric => n ≤ 2 && v < 10 ^ n
  | .alphanumeric => n ≤ 1 && v < 45 && (n != 0 || v == 0)
  | .byte => n == 0 && v == 0
  | .kanji => n == 0 && v == 0

/-- The segment state (R46). -/
abbrev SegmentOk (s : State) : Prop :=
  (s.segOpen = true ↔ s.remain ≠ 0) ∧
  heldOk s.segMode s.pendN.toNat s.pendVal.toNat = true ∧
  (s.segOpen = false → s.pendN = 0 ∧ s.pendVal = 0)

/-- The phases after FINISH (R32). -/
def Phase.afterFinish : Phase → Bool
  | .padded => true
  | .interleaved => true
  | .placed => true
  | .done => true
  | .idle => false
  | .framing => false
  | .error => false

/-- What the phase says of the framing state: a segment is open only while framing, and after FINISH
the buffer is full (R46, spec/41_bitsink_framing.md R190, R195). -/
abbrev PhaseOk (s : State) : Prop :=
  (s.segOpen = true → s.phase = .framing ∨ s.phase = .error) ∧
  (s.phase.afterFinish = true → s.bitLen.toNat = 8 * s.data.toNat) ∧
  (s.fnc1Done = true → s.dataSeen = true ∧ s.fnc1 ≠ .absent) ∧
  (s.segOpen = true → s.dataSeen = true)

/-- The error fields (R52, spec/60_exceptions.md R320). -/
abbrev ErrorOk (s : State) : Prop :=
  (s.phase = .error ↔ s.err ≠ .noError) ∧
  (s.err = .noError → s.errOp = 0) ∧
  s.err ≠ .invalidEciEscape

/-- The result fields (R50, spec/44_masker.md R294, R297). In ERROR they are those of the state before
(log entry 12). -/
abbrev ResultOk (s : State) : Prop :=
  (s.phase = .done → s.resultValid = true) ∧
  (s.resultValid = true → s.phase = .done ∨ s.phase = .error) ∧
  (s.resultValid = false → s.penValid = 0 ∧ s.chosen = 0 ∧ s.dark = 0) ∧
  (s.resultValid = true → s.penValid = if s.maskAuto then 0xFF else 0) ∧
  (s.penValid = 0 → s.pen = Vector.replicate 8 0) ∧
  (s.resultValid = true → s.maskAuto = false → s.chosen = s.maskId)

/-- The arrays keep their shapes (R31, spec/20_memory.md R82). -/
abbrev ArraysOk (s : State) : Prop :=
  s.dataCw.length ≤ Config.maxData ∧ s.stream.length ≤ Config.maxRaw

/-- The invariant of the machine. -/
abbrev Inv (s : State) : Prop :=
  ConfigOk s ∧ BufferOk s ∧ SegmentOk s ∧ PhaseOk s ∧ ErrorOk s ∧ ResultOk s ∧ ArraysOk s

/-- A cell some function pattern of the version draws: a function cell (spec/00_scope.md R13,
spec/43_matrix_builder.md R241). -/
def isFunctionCell (side v : Nat) (ecl : Level) (x y : Nat) : Bool :=
  (functionDraws side v ecl).any fun d => d.x == x && d.y == y

/-- In PLACED and DONE the function flags of the symbol are exactly the function cells (R49). -/
abbrev FlagsOk (s : State) : Prop :=
  (s.phase = .placed ∨ s.phase = .done) →
    ∀ x < s.size.toNat, ∀ y < s.size.toNat,
      cell s.matrix.fn x y = isFunctionCell s.size.toNat s.version.toNat s.ecl x y

/-! ### What no read can tell apart -/

/-- Two arrays agree on their first `n` entries. -/
abbrev SameEntries (n : Nat) (a b : List Byte) : Prop := ∀ i < n, entry a i = entry b i

/-- Two matrices agree on the square of a side. -/
abbrev SameSquare (side : Nat) (a b : Matrix) : Prop :=
  ∀ x < side, ∀ y < side, cell a.mod x y = cell b.mod x y ∧ cell a.fn x y = cell b.fn x y

/-- Two states that differ at most in array contents no command has written since reset
(spec/10_state.md R76): every other element is equal, and so are the entries and cells the phase's
commands have written. -/
abbrev SameButUnwritten (s t : State) : Prop :=
  t = { s with dataCw := t.dataCw, stream := t.stream, matrix := t.matrix } ∧
  (s.phase = .padded → SameEntries s.data.toNat s.dataCw t.dataCw) ∧
  (s.phase.showsStream = true → SameEntries s.raw.toNat s.stream t.stream) ∧
  (s.phase = .placed ∨ s.phase = .done → SameSquare s.size.toNat s.matrix t.matrix)

end Sys2Proof.Machine
end

