-- ==== Sys2Proof/Certificates/Slice0/Obligations.lean ====
section
/-! DEFINITION. What is claimed of the model, rule by rule of spec/. Every conclusion of the form
`exec i s = .next { s with … }` is the instruction's frame too: each element of State that the update
does not name, the host's side of the bus included, is unchanged. -/

open Sys2Proof Sys2Proof.Machine

/-! ### Words the claims use -/

/-- The reserved bits of each assigned opcode, from the masks of spec/opcode_table.json; none for an
unassigned opcode. -/
def Sys2Proof.Claims.reservedMask (op : Nat) : Option Nat :=
  match op with
  | 0x00 => some 0
  | 0x01 => some 0
  | 0x10 => some 0xFFC000
  | 0x20 => some 0xFFFFC0
  | 0x21 => some 0xFE0000
  | 0x22 => some 0xF00000
  | 0x23 => some 0x0000FC
  | 0x24 => some 0xFF0000
  | 0x30 => some 0xFFFFFF
  | 0x31 => some 0xFFFFFF
  | 0x32 => some 0xFFFFFF
  | 0x33 => some 0xFFFFFF
  | 0x3F => some 0xFFFFFF
  | _ => none

/-- The legal phase of a command (spec/30_encoding.md R110); none where every phase is. -/
def Sys2Proof.Claims.legalPhase : Instr → Option Phase
  | .nop _ => none
  | .softReset _ => none
  | .config _ _ _ _ _ => some .idle
  | .appendBits _ => some .framing
  | .saHeader _ _ _ => some .framing
  | .eci _ => some .framing
  | .segBegin _ _ => some .framing
  | .put _ => some .framing
  | .finish => some .framing
  | .ecc => some .padded
  | .place => some .interleaved
  | .mask => some .placed
  | .run => some .framing

/-- The phase a valid command leads to (spec/10_state.md R33); none for NOP, which leaves it. -/
def Sys2Proof.Claims.phaseAfter : Instr → Option Phase
  | .nop _ => none
  | .softReset _ => some .idle
  | .config _ _ _ _ _ => some .framing
  | .appendBits _ => some .framing
  | .saHeader _ _ _ => some .framing
  | .eci _ => some .framing
  | .segBegin _ _ => some .framing
  | .put _ => some .framing
  | .finish => some .padded
  | .ecc => some .interleaved
  | .place => some .placed
  | .mask => some .done
  | .run => some .done

/-- The codes a command may raise (the columns of spec/60_exceptions.md R321). -/
def Sys2Proof.Claims.raisable : Instr → List ErrCode
  | .nop _ => []
  | .softReset _ => []
  | .config _ _ _ _ _ => [.invalidArgument]
  | .appendBits _ => [.invalidArgument, .dataTooLong]
  | .saHeader _ _ _ => [.invalidArgument, .dataTooLong]
  | .eci _ => [.invalidArgument, .dataTooLong]
  | .segBegin _ _ => [.invalidArgument, .dataTooLong]
  | .put _ => [.invalidArgument, .incompatibleOverride, .dataTooLong]
  | .finish => [.invalidArgument]
  | .ecc => [.invalidArgument]
  | .place => [.invalidArgument, .internal]
  | .mask => [.invalidArgument, .internal]
  | .run => [.invalidArgument, .internal]

/-- The configuration and geometry elements two states share (spec/10_state.md R34). -/
abbrev Sys2Proof.Claims.SameConfig (s t : State) : Prop :=
  t.version = s.version ∧ t.ecl = s.ecl ∧ t.maskId = s.maskId ∧ t.maskAuto = s.maskAuto ∧
  t.fnc1 = s.fnc1 ∧ t.size = s.size ∧ t.bucket = s.bucket ∧ t.rawBits = s.rawBits ∧ t.raw = s.raw ∧
  t.blocks = s.blocks ∧ t.eccLen = s.eccLen ∧ t.data = s.data

/-- What one character does to the buffer and the held group, by mode: the bits emitted and the group
held after it (spec/41_bitsink_framing.md R182 to R186). `n` and `held` are the group before it, `v`
the character's value, `last` whether it is the segment's last. -/
def Sys2Proof.Claims.putEffect (mode : Mode) (n held v : Nat) (last : Bool) : List Bool × Nat × Nat :=
  match mode with
  | .numeric =>
    if n + 1 = 3 then (bitsOf (held * 10 + v) 10, 0, 0)
    else if last then (bitsOf (held * 10 + v) (if n + 1 = 2 then 7 else 4), 0, 0)
    else ([], n + 1, held * 10 + v)
  | .alphanumeric =>
    if n = 1 then (bitsOf (45 * held + v) 11, 0, 0)
    else if last then (bitsOf v 6, 0, 0)
    else ([], 1, v)
  | .byte => (bitsOf v 8, 0, 0)
  | .kanji => (bitsOf v 13, 0, 0)

/-- Commands performed one after another. -/
def Sys2Proof.Claims.performAll : List Instr → State → Option State
  | [], s => some s
  | i :: is, s =>
    match exec i s with
    | .next t => Sys2Proof.Claims.performAll is t
    | .fault _ => none
    | .refused _ => none

/-- The ECI designator as a bit string (spec/41_bitsink_framing.md R167). -/
def Sys2Proof.Claims.designatorBits (v : Nat) : List Bool :=
  if v < 128 then bitsOf v 8
  else if v < 16384 then [true, false] ++ bitsOf v 14
  else [true, true, false] ++ bitsOf v 21

/-- The bits of the FNC1 indicator a SEG_BEGIN emits in this state (spec/41_bitsink_framing.md
R179). -/
def Sys2Proof.Claims.fnc1Bits (s : State) : List Bool :=
  if s.fnc1Done then []
  else match s.fnc1 with
    | .absent => []
    | .first => [false, true, false, true]
    | .second => [true, false, false, true]

/-- The buffer FINISH leaves: terminator, alignment, pad bytes (spec/41_bitsink_framing.md R191 to
R193). -/
def Sys2Proof.Claims.paddedBits (cap : Nat) (bits : List Bool) : List Bool :=
  let terminated := bits ++ List.replicate (min 4 (cap - bits.length)) false
  let aligned := terminated ++ List.replicate ((8 - terminated.length % 8) % 8) false
  aligned ++ (List.range ((cap - aligned.length) / 8)).flatMap fun i =>
    bitsOf (if i % 2 = 0 then 0xEC else 0x11) 8

/-- Powers in GF(2^8) (spec/42_rs_codec.md R203). -/
def Sys2Proof.Claims.gfPow (x : Byte) : Nat → Byte
  | 0 => 1
  | n + 1 => gfMul (Sys2Proof.Claims.gfPow x n) x

/-- The value of a polynomial, highest coefficient first, at a point of GF(2^8). -/
def Sys2Proof.Claims.evalPoly (coefficients : List Byte) (x : Byte) : Byte :=
  coefficients.foldl (fun acc c => gfMul acc x ^^^ c) 0

/-- The first data codeword of block b: the lengths of blocks 0..b-1 (spec/42_rs_codec.md R225). -/
def Sys2Proof.Claims.blockStart (s : State) (b : Nat) : Nat :=
  b * (s.raw.toNat / s.blocks.toNat - s.eccLen.toNat) +
    (b - (s.blocks.toNat - s.raw.toNat % s.blocks.toNat))

/-- The data bytes of block b (spec/42_rs_codec.md R225). -/
def Sys2Proof.Claims.blockData (s : State) (b : Nat) : List Byte :=
  (List.range (s.raw.toNat / s.blocks.toNat - s.eccLen.toNat +
      (if b < s.blocks.toNat - s.raw.toNat % s.blocks.toNat then 0 else 1))).map fun j =>
    entry s.dataCw (Sys2Proof.Claims.blockStart s b + j)

/-- The free cells of the symbol in the order of the zig-zag path (spec/43_matrix_builder.md R253). -/
def Sys2Proof.Claims.freePath (s : State) : List (Nat × Nat) :=
  (zigzag s.size.toNat).filter fun p =>
    !isFunctionCell s.size.toNat s.version.toNat s.ecl p.1 p.2

/-- A cell a list of draws names. -/
def Sys2Proof.Claims.drawn (ds : List Draw) (x y : Nat) : Bool := ds.any fun d => d.x == x && d.y == y

/-- A cell outside the symbol is as it was in another matrix. -/
abbrev Sys2Proof.Claims.SameOutside (side : Nat) (a b : Matrix) : Prop :=
  ∀ x y, ¬(x < side ∧ y < side) → cell b.mod x y = cell a.mod x y ∧ cell b.fn x y = cell a.fn x y

/-- The 45 characters of the alphanumeric table, each at its value (spec/41_bitsink_framing.md
R172). -/
def Sys2Proof.Claims.alnumChars : List Nat :=
  (List.range 10).map (0x30 + ·) ++ (List.range 26).map (0x41 + ·) ++
    [0x20, 0x24, 0x25, 0x2A, 0x2B, 0x2D, 0x2E, 0x2F, 0x3A]

/-- The eight mask conditions (spec/44_masker.md R281). -/
def Sys2Proof.Claims.maskConditions : List (Nat → Nat → Bool) :=
  [fun x y => (x + y) % 2 = 0,
   fun _ y => y % 2 = 0,
   fun x _ => x % 3 = 0,
   fun x y => (x + y) % 3 = 0,
   fun x y => (x / 3 + y / 2) % 2 = 0,
   fun x y => (x * y) % 2 + (x * y) % 3 = 0,
   fun x y => ((x * y) % 2 + (x * y) % 3) % 2 = 0,
   fun x y => ((x + y) % 2 + (x * y) % 3) % 2 = 0]

/-- The score of a line's runs: 3 + (L - 5) for each maximal run of L ≥ 5 (spec/44_masker.md R285). -/
def Sys2Proof.Claims.runScore (cells : List Bool) : Nat :=
  ((cells.splitBy (· == ·)).map fun r => if r.length ≥ 5 then 3 + (r.length - 5) else 0).sum

/-- The run lengths of a line, light and dark by turns, the first and the last light: a line that
begins or ends dark has a light run of length 0 there, and the light border of width `side` lengthens
the first and the last run (spec/44_masker.md R286, R288). -/
def Sys2Proof.Claims.borderedRuns (side : Nat) (cells : List Bool) : List Nat :=
  let runs := (cells.splitBy (· == ·)).map List.length
  let runs := if cells.headD false then 0 :: runs else runs
  let runs := if runs.length % 2 = 0 then runs ++ [0] else runs
  runs.mapIdx fun i n =>
    n + (if i = 0 then side else 0) + (if i + 1 = runs.length then side else 0)

/-- The finder-like occurrences at the head of a list of runs that begins light: the core 1:1:3:1:1,
once for each side with a light margin of 4 units (spec/44_masker.md R287). -/
def Sys2Proof.Claims.finderScore : List Nat → Nat
  | a :: b :: c :: d :: e :: f :: g :: _ =>
    if b > 0 ∧ c = b ∧ d = 3 * b ∧ e = b ∧ f = b then
      (if a ≥ 4 * b ∧ g ≥ b then 1 else 0) + (if g ≥ 4 * b ∧ a ≥ b then 1 else 0)
    else 0
  | _ => 0

/-- The finder-like occurrences of a line: those at each light run. -/
def Sys2Proof.Claims.lineFinders (side : Nat) (cells : List Bool) : Nat :=
  let runs := Sys2Proof.Claims.borderedRuns side cells
  (((List.range runs.length).filter fun i => i % 2 = 0).map fun i =>
    Sys2Proof.Claims.finderScore (runs.drop i)).sum

/-- The penalty of a symbol as the sum of its four terms (spec/44_masker.md R284, R285, R287, R290,
R291). -/
def Sys2Proof.Claims.fourTerms (side : Nat) (g : Grid) : Nat :=
  let lines := (List.range side).map (rowCells side g) ++ (List.range side).map (columnCells side g)
  let windows := (List.range (side - 1)).flatMap fun y =>
    (List.range (side - 1)).filter fun x =>
      [cell g (x + 1) y, cell g x (y + 1), cell g (x + 1) (y + 1)].all (· == cell g x y)
  let dark := ((List.range side).flatMap fun y => (List.range side).filter fun x => cell g x y).length
  let t := side * side
  (lines.map Sys2Proof.Claims.runScore).sum +
    3 * windows.length +
    40 * (lines.map (Sys2Proof.Claims.lineFinders side)).sum +
    10 * (((20 * (dark : Int) - 10 * (t : Int)).natAbs + t - 1) / t - 1)

open Sys2Proof.Claims

/-! ### Encoding -/

/-- No operand bit is lost: every instruction, legal operands or not, is read back from its word
(spec/30_encoding.md R100 to R110). -/
def Obligations.DecodeOfEncodeIsTheInstruction : Prop := ∀ i : Instr, decode (encode i) = .ok i

/-- Each word has one meaning: a word that decodes is the encoding of what it decodes to. -/
def Obligations.EncodeOfDecodeIsTheWord : Prop :=
  ∀ (w : Word) (i : Instr), decode w = .ok i → encode i = w

/-- R111, R112: the three cases of a command word, decided by the opcode and the format's reserved
bits, and what each does. -/
def Obligations.EveryWordIsACommandOrFails : Prop :=
  (∀ (w : Word) (s : State),
    (match reservedMask (opcodeOf w).toNat with
      | some m =>
        if w.toNat &&& m = 0 then
          ∃ i, decode w = .ok i ∧ i.opcode = opcodeOf w ∧ commandStep w s = exec i s
        else
          decode w = .error .reservedBits ∧ (s.phase ≠ .error →
            commandStep w s = .next (errorEntry .invalidArgument (opcodeOf w) s))
      | none =>
        decode w = .error .unassignedOpcode ∧ (s.phase ≠ .error →
          commandStep w s = .next (errorEntry .invalidArgument (opcodeOf w) s))) ∧
    (s.phase = .error → opcodeOf w ≠ 0x01 → commandStep w s = .next s)) ∧
  (∀ op < 256, reservedMask op = none ↔
    (0x02 ≤ op ∧ op ≤ 0x0F) ∨ (0x11 ≤ op ∧ op ≤ 0x1F) ∨ (0x25 ≤ op ∧ op ≤ 0x2F) ∨
      (0x34 ≤ op ∧ op ≤ 0x3E) ∨ (0x40 ≤ op ∧ op ≤ 0xFF))

/-- R116: the example words decode to the commands they stand for. -/
def Obligations.ExampleWordsDecodeToTheirCommands : Prop :=
  decode 0x10000201#32 = .ok (.config 0 false 2 .m 1) ∧
  decode 0x100008C1#32 = .ok (.config 0 true 0 .q 1) ∧
  decode 0x23000B01#32 = .ok (.segBegin 11 .alphanumeric) ∧
  decode 0x24000048#32 = .ok (.put 0x48) ∧
  decode 0x22000006#32 = .ok (.eci 6) ∧
  decode 0x21003640#32 = .ok (.saHeader 0x1B 4 0)

/-! ### The step and the host's bus -/

/-- A step whose oldest host event writes a word to `CMD` runs the command the word decodes to, the
event taken off the list (R12, R130); a word that decodes to none fails or, in ERROR, is ignored. -/
def Obligations.StepRunsTheDecodedCommand : Prop :=
  ∀ (s : State) (w : Word) (rest : List HostEvent), s.pending = .write 0x004 4 w :: rest →
    (∀ i, decode w = .ok i → step s = exec i { s with pending := rest }) ∧
    (∀ e, decode w = .error e → s.phase ≠ .error → step s =
      .next { s with pending := rest, phase := .error, err := .invalidArgument, errOp := opcodeOf w }) ∧
    (∀ e, decode w = .error e → s.phase = .error → step s = .next { s with pending := rest })

/-- R83: an access of another width than a word, or at a misaligned offset of the window. -/
def Obligations.UnadmittedAccessesAreIgnored : Prop :=
  ∀ (s : State) (off width : Nat) (rest : List HostEvent), off < 4096 → (width ≠ 4 ∨ off % 4 ≠ 0) →
    (∀ v, s.pending = .write off width v :: rest → step s = .next { s with pending := rest }) ∧
    (s.pending = .read off width :: rest →
      step s = .next { s with pending := rest, readData := some 0 })

/-- Every register but the two windows reads as its fields, in the places R59 to R74 give them, and a
reserved offset of the window reads 0. -/
def Obligations.RegisterReadsShowTheirFields : Prop :=
  (∀ s : State,
    (busRead 0x000 4 s).toNat = 0x51520007 ∧
    (busRead 0x004 4 s).toNat = 0 ∧
    busRead 0x008 4 s = s.arg ∧
    (busRead 0x00C 4 s).toNat = s.phase.code.toNat + 2 ^ 3 * s.segOpen.toNat +
      2 ^ 4 * s.err.code.toNat + 2 ^ 8 * s.errOp.toNat + 2 ^ 16 * s.fnc1Done.toNat +
      2 ^ 17 * s.saDone.toNat + 2 ^ 18 * s.dataSeen.toNat ∧
    (busRead 0x010 4 s).toNat = s.version.toNat + 2 ^ 6 * s.ecl.code.toNat + 2 ^ 8 * s.maskId.toNat +
      2 ^ 11 * s.maskAuto.toNat + 2 ^ 12 * s.fnc1.code.toNat ∧
    (busRead 0x014 4 s).toNat = s.size.toNat + 2 ^ 8 * s.blocks.toNat + 2 ^ 16 * s.eccLen.toNat +
      2 ^ 24 * s.bucket.toNat ∧
    (busRead 0x018 4 s).toNat = s.raw.toNat + 2 ^ 16 * s.data.toNat ∧
    (busRead 0x01C 4 s).toNat = s.rawBits.toNat ∧
    (busRead 0x020 4 s).toNat = s.bitLen.toNat ∧
    (busRead 0x024 4 s).toNat = s.segMode.code.toNat + 2 ^ 2 * s.pendN.toNat +
      2 ^ 4 * s.pendVal.toNat + 2 ^ 16 * s.remain.toNat ∧
    (busRead 0x028 4 s).toNat = s.chosen.toNat + 2 ^ 3 * s.resultValid.toNat +
      2 ^ 8 * s.penValid.toNat ∧
    (busRead 0x02C 4 s).toNat = s.dark.toNat ∧
    (∀ k : Fin 8, busRead (0x040 + 4 * k.val) 4 s = s.pen[k.val]) ∧
    (busRead 0x060 4 s).toNat = s.modX.toNat + 2 ^ 8 * s.modY.toNat ∧
    (busRead 0x068 4 s).toNat = s.cwIdx.toNat) ∧
  (∀ (s : State) (off : Nat), (0x030 ≤ off ∧ off ≤ 0x03C) ∨ (0x070 ≤ off ∧ off ≤ 0xFFC) →
    busRead off 4 s = 0)

/-- A read of the window changes nothing but the word the host receives, in any phase (R85, R137). -/
def Obligations.ReadsHaveNoSideEffect : Prop :=
  ∀ (s : State) (off width : Nat) (rest : List HostEvent), off < 4096 →
    s.pending = .read off width :: rest →
    step s = .next { s with pending := rest, readData := some (busRead off width s) }

/-- R86, R87: what the two readback windows show. -/
def Obligations.ReadbackWindowsShowSymbolAndCodewords : Prop :=
  ∀ s : State,
    (busRead 0x064 4 s).toNat =
      (if s.phase = .done ∧ s.modX.toNat < s.size.toNat ∧ s.modY.toNat < s.size.toNat then
        2 * (cell s.matrix.fn s.modX.toNat s.modY.toNat).toNat +
          (cell s.matrix.mod s.modX.toNat s.modY.toNat).toNat
      else 0) ∧
    (busRead 0x06C 4 s).toNat =
      (if s.phase = .padded ∧ s.cwIdx.toNat < s.data.toNat then
        (entry s.dataCw s.cwIdx.toNat).toNat
      else if (s.phase = .interleaved ∨ s.phase = .placed ∨ s.phase = .done) ∧
          s.cwIdx.toNat < s.raw.toNat then
        (entry s.stream s.cwIdx.toNat).toNat
      else 0)

/-- R134, R135, R136: the three registers a host write updates, in every phase. -/
def Obligations.HostWritesUpdateTheirRegister : Prop :=
  ∀ (s : State) (w : Word) (rest : List HostEvent),
    (s.pending = .write 0x008 4 w :: rest → step s = .next { s with pending := rest, arg := w }) ∧
    (s.pending = .write 0x060 4 w :: rest → step s = .next { s with
      pending := rest
      modX := BitVec.ofNat 8 (w.toNat % 2 ^ 8)
      modY := BitVec.ofNat 8 (w.toNat / 2 ^ 8 % 2 ^ 8) }) ∧
    (s.pending = .write 0x068 4 w :: rest → step s = .next { s with
      pending := rest
      cwIdx := BitVec.ofNat 12 (w.toNat % 2 ^ 12) })

/-- R138: a write to any other offset of the window. -/
def Obligations.OtherWritesAreIgnored : Prop :=
  ∀ (s : State) (off : Nat) (w : Word) (rest : List HostEvent), off < 4096 →
    off ≠ 0x004 → off ≠ 0x008 → off ≠ 0x060 → off ≠ 0x068 →
    s.pending = .write off 4 w :: rest → step s = .next { s with pending := rest }

/-- An event in the window never stops the core: every step answers a next state (R12, R92, R359). -/
def Obligations.EventsInTheWindowNeverStopTheCore : Prop :=
  ∀ s : State,
    (∀ e rest, s.pending = e :: rest →
      match e with
      | .read off _ => off < 4096
      | .write off _ _ => off < 4096
      | .rst => True) →
    ∃ t, step s = .next t

/-- The model's own choices (log entries 3 and 6): with no event the core waits, and an access outside
the window stops the model. -/
def Obligations.NoEventWaitsAndOutsideAccessStops : Prop :=
  ∀ s : State,
    (s.pending = [] → step s = .next s) ∧
    (∀ off width rest, 4096 ≤ off → s.pending = .read off width :: rest →
      step s = .fault .outsideWindow) ∧
    (∀ off width v rest, 4096 ≤ off → s.pending = .write off width v :: rest →
      step s = .fault .outsideWindow)

/-- R114, R115: the assembler's lines. APPEND is a write of `ARG` and an APPEND_BITS; READ_MODULE and
READ_CW set the address register, which nothing else changes, and return their window; SEGMENT, of as
many characters as COUNT holds, is its SEG_BEGIN and one PUT per character, in order. -/
def Obligations.AssemblerLinesDoWhatTheyStandFor : Prop :=
  ∀ (s : State) (rest : List HostEvent),
    (∀ (value : Word) (n : BitVec 6), s.pending = pseudoAppend value n ++ rest →
      ∃ t, step s = .next t ∧
        step t = exec (.appendBits n) { s with arg := value, pending := rest }) ∧
    (∀ x y : BitVec 8, s.pending = pseudoReadModule x y ++ rest → s.phase = .done →
      x.toNat < s.size.toNat → y.toNat < s.size.toNat →
      ∃ t, step s = .next t ∧ step t = .next { s with
        modX := x
        modY := y
        pending := rest
        readData := some (BitVec.ofNat 32 (2 * (cell s.matrix.fn x.toNat y.toNat).toNat +
          (cell s.matrix.mod x.toNat y.toNat).toNat)) }) ∧
    (∀ i : BitVec 12, s.pending = pseudoReadCw i ++ rest →
      ∃ t, step s = .next t ∧ step t = .next { s with
        cwIdx := i
        pending := rest
        readData := some (busRead 0x06C 4 { s with cwIdx := i }) }) ∧
    (∀ (mode : Mode) (chars : List (BitVec 16)), chars.length < 2 ^ 16 →
      s.pending = pseudoSegment mode chars ++ rest →
      ∃ t, performAll (.segBegin (BitVec.ofNat 16 chars.length) mode :: chars.map .put)
          { s with pending := rest } = some t ∧
        Host.Core.run Sys2Proof.core (chars.length + 1) s = .next t)

/-! ### Reset, NOP, CONFIG -/

/-- R350, R351, R132: `rst` and SOFT_RESET, in any phase and with any operand, give every element its
reset value, and with it every register its reset reading; the host's side of the bus stays. -/
def Obligations.ResetGivesTheSpecifiedValues : Prop :=
  AtReset State.reset ∧
  (∀ (s : State) (a : BitVec 24), ∃ t, exec (.softReset a) s = .next t ∧
    AtReset t ∧ t.pending = s.pending ∧ t.readData = s.readData ∧
    (∀ rest, s.pending = .rst :: rest → step s = .next { t with pending := rest })) ∧
  (∀ t : State, AtReset t → busRead 0x000 4 t = 0x51520007#32 ∧
    ∀ off, 0x004 ≤ off → off < 4096 → busRead off 4 t = 0)

/-- R131: NOP, in any phase and with any operand; it is opcode 0x00. -/
def Obligations.NopChangesNothing : Prop :=
  ∀ (a : BitVec 24) (s : State), decode (0x00#8 ++ a) = .ok (.nop a) ∧ exec (.nop a) s = .next s

/-- R133: CONFIG in IDLE with a legal version and FNC1 code latches the configuration and the geometry
of R40 to R44, each value in its register whole; otherwise it fails with *InvalidArgument*. -/
def Obligations.ConfigLatchesConfigurationAndGeometry : Prop :=
  ∀ (f : BitVec 2) (auto : Bool) (id : BitVec 3) (e : Level) (v : BitVec 6) (s : State),
    s.phase ≠ .error →
    if s.phase = .idle ∧ 1 ≤ v.toNat ∧ v.toNat ≤ 40 ∧ f ≠ 3 then
      ∃ t, exec (.config f auto id e v) s = .next t ∧ Configured t ∧
        t = { s with
          phase := .framing
          version := v
          ecl := e
          maskAuto := auto
          maskId := if auto then 0 else id
          fnc1 := if f = 0 then .absent else if f = 1 then .first else .second
          size := BitVec.ofNat 8 (4 * v.toNat + 17)
          bucket := BitVec.ofNat 2 (if v.toNat ≤ 9 then 0 else if v.toNat ≤ 26 then 1 else 2)
          rawBits := t.rawBits
          raw := BitVec.ofNat 12 (t.rawBits.toNat / 8)
          blocks := t.blocks
          eccLen := t.eccLen
          data := BitVec.ofNat 12 (t.raw.toNat - t.blocks.toNat * t.eccLen.toNat) }
    else exec (.config f auto id e v) s = .next (errorEntry .invalidArgument 0x10 s)

/-- R34: once configured, nothing but a reset changes the configuration or the geometry. -/
def Obligations.ConfigurationIsFixedUntilReset : Prop :=
  ∀ s t : State, s.phase ≠ .idle → step s = .next t →
    (∃ rest, s.pending = .rst :: rest) ∨
    (∃ a rest, s.pending = .write 0x004 4 (encode (.softReset a)) :: rest) ∨
    SameConfig s t

/-- R39, R51 with R132: no command but SOFT_RESET writes `S_ARG` or a readback address, and no command
touches the host's side of the bus. -/
def Obligations.CommandsLeaveHostWrittenRegisters : Prop :=
  ∀ (i : Instr) (s t : State), exec i s = .next t →
    t.pending = s.pending ∧ t.readData = s.readData ∧
    ((∀ a, i ≠ .softReset a) →
      t.arg = s.arg ∧ t.modX = s.modX ∧ t.modY = s.modY ∧ t.cwIdx = s.cwIdx)

/-! ### Errors -/

/-- R322: a command that fails leaves the state before it with the three error fields written: no bit,
no segment state, no codeword, no module of it stays. -/
def Obligations.FailingCommandLeavesOnlyTheErrorFields : Prop :=
  ∀ (i : Instr) (s t : State), exec i s = .next t → s.phase ≠ .error → t.phase = .error →
    ∃ c, c ≠ .noError ∧ t = { s with phase := .error, err := c, errOp := i.opcode }

/-- R323: in ERROR every command but NOP and SOFT_RESET, decodable or not, is ignored; `ARG`,
`MOD_ADDR` and `CW_ADDR` still take writes; the windows read 0; the other registers still show the
state before the failing command. That RESULT shows it too follows R322 against R50 (DEDUCED, log
entry 12). -/
def Obligations.ErrorIgnoresCommands : Prop :=
  (∀ (s : State) (w : Word) (rest : List HostEvent), s.phase = .error → opcodeOf w ≠ 0x01 →
    s.pending = .write 0x004 4 w :: rest → step s = .next { s with pending := rest }) ∧
  (∀ (s : State) (w : Word) (rest : List HostEvent), s.phase = .error →
    (s.pending = .write 0x008 4 w :: rest → step s = .next { s with pending := rest, arg := w }) ∧
    (s.pending = .write 0x060 4 w :: rest → step s = .next { s with
      pending := rest, modX := w.extractLsb' 0 8, modY := w.extractLsb' 8 8 }) ∧
    (s.pending = .write 0x068 4 w :: rest → step s = .next { s with
      pending := rest, cwIdx := w.extractLsb' 0 12 })) ∧
  (∀ s : State, s.phase = .error → busRead 0x064 4 s = 0 ∧ busRead 0x06C 4 s = 0) ∧
  (∀ (s : State) (c : ErrCode) (op : Byte),
    (∀ off ∈ [0x008, 0x010, 0x014, 0x018, 0x01C, 0x020, 0x024, 0x028, 0x02C, 0x060, 0x068],
      busRead off 4 (errorEntry c op s) = busRead off 4 s) ∧
    ∀ k < 8, busRead (0x040 + 4 * k) 4 (errorEntry c op s) = busRead (0x040 + 4 * k) 4 s)

/-- R33: the only changes of `S_PHASE`. A command moves it as listed, to ERROR by failing, or not at
all (NOP; any command but SOFT_RESET in ERROR); a command in a phase not listed for it fails, and so
does a word that is no command; `rst` goes to IDLE; no other event moves it. -/
def Obligations.PhaseMovesOnlyAsListed : Prop :=
  (∀ (i : Instr) (s t : State), exec i s = .next t →
    t.phase = s.phase ∧ ((∃ a, i = .nop a) ∨ s.phase = .error) ∨
    (∃ a, i = .softReset a) ∧ t.phase = .idle ∨
    legalPhase i = some s.phase ∧ phaseAfter i = some t.phase ∨
    s.phase ≠ .error ∧ t.phase = .error ∧ t.err ≠ .noError) ∧
  (∀ (i : Instr) (s : State), s.phase ≠ .error → (∃ p, legalPhase i = some p ∧ p ≠ s.phase) →
    exec i s = .next (errorEntry .invalidArgument i.opcode s)) ∧
  (∀ (w : Word) (e : DecodeError) (s t : State), decode w = .error e → commandStep w s = .next t →
    t.phase = .error) ∧
  (∀ (s t : State) (rest : List HostEvent), step s = .next t →
    (s.pending = .rst :: rest → t.phase = .idle) ∧
    (∀ off width, s.pending = .read off width :: rest → t.phase = s.phase) ∧
    (∀ off width v, off ≠ 0x004 → s.pending = .write off width v :: rest → t.phase = s.phase))

/-- An operand outside its format's legal values makes the command fail with *InvalidArgument*, in
every phase but ERROR (R104 to R107, R321). -/
def Obligations.IllegalOperandsFail : Prop :=
  ∀ (i : Instr) (s : State), i.wellFormed = false → s.phase ≠ .error →
    exec i s = .next (errorEntry .invalidArgument i.opcode s)

/-- Each command raises only the codes R321 lists for it; FINISH's never-*DataTooLong* rests on the
buffer being within the capacity (R190). -/
def Obligations.CommandsRaiseOnlyTheirListedErrors : Prop :=
  ∀ (i : Instr) (s t : State), BufferOk s → exec i s = .next t → s.phase ≠ .error →
    t.phase = .error → t.err ∈ raisable i

/-! ### Bit buffer and framing -/

/-- R170 to R176: the four character classes with their values (the alphanumeric ones onto 0..44, one
to one; the Kanji ones in 13 bits), the indicators, and the count widths by mode and bucket. -/
def Obligations.CharacterClassesAndIndicatorsHold : Prop :=
  (∀ c d, charValue .numeric c = some d ↔ 0x30 ≤ c ∧ c ≤ 0x39 ∧ d = c - 0x30) ∧
  (∀ c k, charValue .alphanumeric c = some k ↔ alnumChars[k]? = some c) ∧
  alnumChars.length = 45 ∧ alnumChars.Nodup ∧
  (∀ c b, charValue .byte c = some b ↔ c ≤ 0xFF ∧ b = c) ∧
  (∀ c v, charValue .kanji c = some v ↔
    (0x8140 ≤ c ∧ c ≤ 0x9FFC ∧ v = (c - 0x8140) / 256 * 0xC0 + (c - 0x8140) % 256) ∨
    (0xE040 ≤ c ∧ c ≤ 0xEBBF ∧ v = (c - 0xC140) / 256 * 0xC0 + (c - 0xC140) % 256)) ∧
  (∀ c v, charValue .kanji c = some v → v ≤ 0x1FFF) ∧ charValue .kanji 0xEBBF = some 0x1FFF ∧
  ([Mode.numeric, .alphanumeric, .byte, .kanji].map fun m => bitsOf (modeIndicator m) 4) =
    [[false, false, false, true], [false, false, true, false], [false, true, false, false],
     [true, false, false, false]] ∧
  bitsOf eciIndicator 4 = [false, true, true, true] ∧
  ([Fnc1.absent, .first, .second].map fun f => (fnc1Indicator f).map fun i => bitsOf i 4) =
    [none, some [false, true, false, true], some [true, false, false, true]] ∧
  bitsOf structuredAppendIndicator 4 = [false, false, true, true] ∧
  ([Mode.numeric, .alphanumeric, .byte, .kanji].map fun m => [0, 1, 2].map (countWidth m)) =
    [[10, 12, 14], [9, 11, 13], [8, 16, 16], [8, 10, 12]]

/-- R161 with R160: APPEND_BITS. -/
def Obligations.AppendBitsAppendsTheOperand : Prop :=
  ∀ (n : BitVec 6) (s : State), s.phase ≠ .error →
    if s.phase ≠ .framing ∨ s.segOpen = true ∨ n.toNat > 31 ∨ s.arg.toNat / 2 ^ n.toNat ≠ 0 then
      exec (.appendBits n) s = .next (errorEntry .invalidArgument 0x20 s)
    else if s.bitLen.toNat + n.toNat > 8 * s.data.toNat then
      exec (.appendBits n) s = .next (errorEntry .dataTooLong 0x20 s)
    else
      exec (.appendBits n) s = .next { s with
        bitBuf := s.bitBuf ++ (List.range n.toNat).map fun j => s.arg.getLsbD (n.toNat - 1 - j)
        bitLen := BitVec.ofNat 15 (s.bitLen.toNat + n.toNat) }

/-- R45: no step but a reset, which empties it, removes or changes a bit already in the buffer; and
`S_BITLEN` stays its length, within the capacity. -/
def Obligations.BitBufferOnlyGrowsUntilReset : Prop :=
  ∀ s t : State, step s = .next t →
    ((∃ rest, s.pending = .rst :: rest) ∨
      (∃ a rest, s.pending = .write 0x004 4 (encode (.softReset a)) :: rest) → t.bitBuf = []) ∧
    ((∃ rest, s.pending = .rst :: rest) ∨
      (∃ a rest, s.pending = .write 0x004 4 (encode (.softReset a)) :: rest) ∨
      s.bitBuf <+: t.bitBuf) ∧
    (ConfigOk s → BufferOk s → BufferOk t)

/-- R163: SA_HEADER, its 20 bits or its errors. -/
def Obligations.SaHeaderEmitsTwentyBits : Prop :=
  ∀ (p : BitVec 8) (c : BitVec 5) (i : BitVec 4) (s : State), s.phase ≠ .error →
    if s.phase ≠ .framing ∨ s.segOpen = true ∨ s.dataSeen = true ∨ s.saDone = true ∨
        c.toNat = 0 ∨ c.toNat > 16 ∨ i.toNat ≥ c.toNat then
      exec (.saHeader p c i) s = .next (errorEntry .invalidArgument 0x21 s)
    else if s.bitLen.toNat + 20 > 8 * s.data.toNat then
      exec (.saHeader p c i) s = .next (errorEntry .dataTooLong 0x21 s)
    else
      exec (.saHeader p c i) s = .next { s with
        bitBuf := s.bitBuf ++ ([false, false, true, true] ++ bitsOf i.toNat 4 ++
          bitsOf (c.toNat - 1) 4 ++ bitsOf p.toNat 8)
        bitLen := BitVec.ofNat 15 (s.bitLen.toNat + 20)
        saDone := true }

/-- R166, R167: ECI, its indicator and designator or its errors. -/
def Obligations.EciEmitsIndicatorAndDesignator : Prop :=
  ∀ (v : BitVec 20) (s : State), s.phase ≠ .error →
    if s.phase ≠ .framing ∨ s.segOpen = true ∨ v.toNat > 999999 then
      exec (.eci v) s = .next (errorEntry .invalidArgument 0x22 s)
    else if s.bitLen.toNat + (4 + (designatorBits v.toNat).length) > 8 * s.data.toNat then
      exec (.eci v) s = .next (errorEntry .dataTooLong 0x22 s)
    else
      exec (.eci v) s = .next { s with
        bitBuf := s.bitBuf ++ ([false, true, true, true] ++ designatorBits v.toNat)
        bitLen := BitVec.ofNat 15 (s.bitLen.toNat + (4 + (designatorBits v.toNat).length)) }

/-- R178, R179: SEG_BEGIN, its header (mode indicator, the one FNC1 indicator, count) and the segment
state, or its errors. -/
def Obligations.SegBeginEmitsTheHeader : Prop :=
  ∀ (count : BitVec 16) (mode : Mode) (s : State), s.phase ≠ .error →
    let w := countWidth mode s.bucket.toNat
    let header := bitsOf (modeIndicator mode) 4 ++ fnc1Bits s ++ bitsOf count.toNat w
    if s.phase ≠ .framing ∨ s.segOpen = true ∨ count.toNat ≥ 2 ^ w then
      exec (.segBegin count mode) s = .next (errorEntry .invalidArgument 0x23 s)
    else if s.bitLen.toNat + header.length > 8 * s.data.toNat then
      exec (.segBegin count mode) s = .next (errorEntry .dataTooLong 0x23 s)
    else
      exec (.segBegin count mode) s = .next { s with
        bitBuf := s.bitBuf ++ header
        bitLen := BitVec.ofNat 15 (s.bitLen.toNat + header.length)
        fnc1Done := s.fnc1Done || s.fnc1 != .absent
        dataSeen := true
        segMode := mode
        remain := count
        pendN := 0
        pendVal := 0
        segOpen := decide (0 < count.toNat) }

/-- R181 to R186: PUT in an open segment emits what its character completes, holds the rest, and
closes the segment with its last character; a character outside the class fails before the capacity
is looked at (R326). -/
def Obligations.PutEmitsWhatItsCharacterCompletes : Prop :=
  ∀ (c : BitVec 16) (s : State), s.phase ≠ .error → BufferOk s → SegmentOk s →
    if s.phase ≠ .framing ∨ s.segOpen = false then
      exec (.put c) s = .next (errorEntry .invalidArgument 0x24 s)
    else match charValue s.segMode c.toNat with
      | none => exec (.put c) s = .next (errorEntry .incompatibleOverride 0x24 s)
      | some v =>
        let e := putEffect s.segMode s.pendN.toNat s.pendVal.toNat v (s.remain == 1)
        if s.bitLen.toNat + e.1.length > 8 * s.data.toNat then
          exec (.put c) s = .next (errorEntry .dataTooLong 0x24 s)
        else
          exec (.put c) s = .next { s with
            bitBuf := s.bitBuf ++ e.1
            bitLen := BitVec.ofNat 15 (s.bitLen.toNat + e.1.length)
            pendN := BitVec.ofNat 2 e.2.1
            pendVal := BitVec.ofNat 10 e.2.2
            remain := s.remain - 1
            segOpen := s.remain != 1 }

/-- R187, R196: a whole segment of admissible characters takes exactly `seg_bits` bits and closes, if
they fit; if they do not, it ends in ERROR with *DataTooLong*. -/
def Obligations.SegmentTakesItsBitLength : Prop :=
  ∀ (mode : Mode) (chars : List (BitVec 16)) (s : State),
    s.phase = .framing → s.segOpen = false →
    (∀ c ∈ chars, (charValue mode c.toNat).isSome) →
    chars.length < 2 ^ countWidth mode s.bucket.toNat →
    let bits := segmentBits mode s.bucket.toNat (fnc1Bits s).length chars.length
    ∃ t, performAll (.segBegin (BitVec.ofNat 16 chars.length) mode :: chars.map .put) s = some t ∧
      if s.bitLen.toNat + bits ≤ 8 * s.data.toNat then
        t.phase = .framing ∧ t.segOpen = false ∧ t.bitLen.toNat = s.bitLen.toNat + bits
      else t.phase = .error ∧ t.err = .dataTooLong

/-- R190 to R194: FINISH fills the buffer to the capacity with terminator, alignment and pad bytes and
packs it, most significant bit first; it never raises *DataTooLong*. -/
def Obligations.FinishPadsAndPacks : Prop :=
  ∀ s : State, s.phase = .framing → s.segOpen = false → BufferOk s →
    let full := paddedBits (8 * s.data.toNat) s.bitBuf
    full.length = 8 * s.data.toNat ∧
    ∃ t, exec .finish s = .next t ∧
      t = { s with
        bitBuf := full
        bitLen := BitVec.ofNat 15 (8 * s.data.toNat)
        dataCw := t.dataCw
        phase := .padded } ∧
      (∀ j < s.data.toNat, ∀ k < 8,
        (entry t.dataCw j).getLsbD (7 - k) = full.getD (8 * j + k) false) ∧
      (∀ j, s.data.toNat ≤ j → entry t.dataCw j = entry s.dataCw j)

/-! ### Reed-Solomon -/

/-- The assertion of R201: the product's accumulator ends below 256, so the product is a byte. -/
def Obligations.FieldProductIsAByte : Prop := ∀ x y : Byte, (gfMulWide x y).toNat < 256

/-- R202: the field laws, and the order of the primitive element. -/
def Obligations.FieldLawsHold : Prop :=
  (∀ x y : Byte, gfMul x y = gfMul y x) ∧
  (∀ x y z : Byte, gfMul x (y ^^^ z) = gfMul x y ^^^ gfMul x z) ∧
  (∀ x : Byte, gfMul x 1 = x) ∧ (∀ x : Byte, gfMul x 0 = 0) ∧
  (gfPow alpha 255 = 1 ∧ ∀ k, 0 < k → k < 255 → gfPow alpha k ≠ 1) ∧
  gfPow alpha 254 = 0x8E#8 ∧ gfMul alpha (gfPow alpha 254) = 1 ∧
  gfMul alpha (gfPow alpha 255) = 0x02#8

/-- R205, R206: the divisor of degree d is monic with d further coefficients and vanishes at the powers
0 .. d-1 of alpha, so it is the product of the (x - alpha^i). -/
def Obligations.DivisorVanishesAtThePowersOfAlpha : Prop :=
  ∀ d ≤ 255, (rsDivisor d).length = d ∧
    ∀ i < d, evalPoly (1 :: rsDivisor d) (gfPow alpha i) = 0

/-- R208: the properties of the remainder. -/
def Obligations.RemainderPropertiesHold : Prop :=
  (∀ d ≤ 255, (rsDivisor d).length = d) ∧
  (∀ b : Byte, rsRemainder [b] (rsDivisor 0) = []) ∧
  (∀ d, 1 ≤ d → d ≤ 255 → ∀ (n : Nat) (b : Byte),
    (∃ c ∈ rsRemainder (List.replicate n 0 ++ [b]) (rsDivisor d), c ≠ 0) ↔ b ≠ 0) ∧
  (∀ (n : Nat) (bytes g : List Byte),
    rsRemainder (List.replicate n 0 ++ bytes) g = rsRemainder bytes g) ∧
  (∀ a b g : List Byte, a.length = b.length →
    rsRemainder (List.zipWith (· ^^^ ·) a b) g =
      List.zipWith (· ^^^ ·) (rsRemainder a g) (rsRemainder b g))

/-- R207: data followed by its remainder is a multiple of the divisor: as a polynomial it vanishes at
every root of the divisor (the codeword is systematic and valid). The factor x^d that makes it so is
what R207 marks as general knowledge (PRESUMED, log entry 15). -/
def Obligations.DataWithRemainderIsACodeword : Prop :=
  ∀ d ≤ 255, ∀ bytes : List Byte,
    (rsRemainder bytes (rsDivisor d)).length = d ∧
    ∀ i < d, evalPoly (bytes ++ rsRemainder bytes (rsDivisor d)) (gfPow alpha i) = 0

/-- R225, R228: for every version and level the blocks take every data codeword once, and the stream
has exactly `S_RAW` codewords. -/
def Obligations.BlocksAndStreamHaveTheirLengths : Prop :=
  ∀ s : State, Configured s →
    (blockLengths s.blocks.toNat s.eccLen.toNat s.raw.toNat).length = s.blocks.toNat ∧
    (blockLengths s.blocks.toNat s.eccLen.toNat s.raw.toNat).sum = s.data.toNat ∧
    (∀ n ∈ blockLengths s.blocks.toNat s.eccLen.toNat s.raw.toNat, 9 ≤ n ∧ n ≤ 123) ∧
    s.data.toNat + s.blocks.toNat * s.eccLen.toNat = s.raw.toNat ∧
    ∀ bytes : List Byte, bytes.length = s.data.toNat →
      (codewordStream s.blocks.toNat s.eccLen.toNat s.raw.toNat bytes).length = s.raw.toNat

/-- R226, R227, R229: ECC in PADDED interleaves the blocks: the full data columns, the long blocks'
last bytes, the ECC columns; entries from `S_RAW` on stay. -/
def Obligations.EccInterleavesTheBlocks : Prop :=
  ∀ s : State, s.phase = .padded → Configured s →
    let nb := s.blocks.toNat
    let short := nb - s.raw.toNat % nb
    let columns := s.raw.toNat / nb - s.eccLen.toNat
    ∃ t, exec .ecc s = .next t ∧
      t = { s with stream := t.stream, phase := .interleaved } ∧
      (∀ b < nb, ∀ i < columns,
        entry t.stream (i * nb + b) = entry s.dataCw (blockStart s b + i)) ∧
      (∀ b, short ≤ b → b < nb →
        entry t.stream (columns * nb + (b - short)) = entry s.dataCw (blockStart s b + columns)) ∧
      (∀ b < nb, ∀ i < s.eccLen.toNat, entry t.stream (s.data.toNat + i * nb + b) =
        entry (rsRemainder (blockData s b) (rsDivisor s.eccLen.toNat)) i) ∧
      (∀ p, s.raw.toNat ≤ p → entry t.stream p = entry s.stream p)

/-! ### Placement -/

/-- The tables of the spec, row by row: R245 (alignment counts, steps and positions of versions 2 to
40), R258 (format words), R259 (version words), R220 and R221 (ECC lengths and block counts of L, M, Q,
H, versions 1 to 40; PRESUMED by the spec's own mark, log entry 15), R230 (side, bucket, R(v), raw
codewords, remainder bits, data codewords of L, M, Q, H). -/
def Obligations.PlacementTablesHold : Prop :=
  ((List.range 39).map fun i => alignPositions (i + 2)) =
    [[6, 18], [6, 22], [6, 26], [6, 30], [6, 34], [6, 22, 38], [6, 24, 42], [6, 26, 46], [6, 28, 50],
     [6, 30, 54], [6, 32, 58], [6, 34, 62]] ++
    [[6, 26, 46, 66], [6, 26, 48, 70], [6, 26, 50, 74], [6, 30, 54, 78], [6, 30, 56, 82],
     [6, 30, 58, 86], [6, 34, 62, 90]] ++
    [[6, 28, 50, 72, 94], [6, 26, 50, 74, 98], [6, 30, 54, 78, 102], [6, 28, 54, 80, 106],
     [6, 32, 58, 84, 110], [6, 30, 58, 86, 114], [6, 34, 62, 90, 118]] ++
    [[6, 26, 50, 74, 98, 122], [6, 30, 54, 78, 102, 126], [6, 26, 52, 78, 104, 130],
     [6, 30, 56, 82, 108, 134], [6, 34, 60, 86, 112, 138], [6, 30, 58, 86, 114, 142],
     [6, 34, 62, 90, 118, 146]] ++
    [[6, 30, 54, 78, 102, 126, 150], [6, 24, 50, 76, 102, 128, 154], [6, 28, 54, 80, 106, 132, 158],
     [6, 32, 58, 84, 110, 136, 162], [6, 26, 54, 82, 110, 138, 166],
     [6, 30, 58, 86, 114, 142, 170]] ∧
  alignPositions 1 = [] ∧
  ((List.range 39).map fun i => alignCount (i + 2)) =
    [2, 2, 2, 2, 2, 3, 3, 3, 3, 3, 3, 3, 4, 4, 4, 4, 4, 4, 4, 5] ++
    [5, 5, 5, 5, 5, 5, 6, 6, 6, 6, 6, 6, 6, 7, 7, 7, 7, 7, 7] ∧
  ((List.range 39).map fun i => alignStep (i + 2)) =
    [12, 16, 20, 24, 28, 16, 18, 20, 22, 24, 26, 28, 20, 22, 24, 24, 26, 28, 28, 22] ++
    [24, 24, 26, 26, 28, 28, 24, 24, 26, 26, 26, 28, 28, 24, 26, 26, 26, 28, 28] ∧
  ([Level.l, .m, .q, .h].map fun e => (List.range 8).map (formatBits e)) =
    [[0x77C4, 0x72F3, 0x7DAA, 0x789D, 0x662F, 0x6318, 0x6C41, 0x6976],
     [0x5412, 0x5125, 0x5E7C, 0x5B4B, 0x45F9, 0x40CE, 0x4F97, 0x4AA0],
     [0x355F, 0x3068, 0x3F31, 0x3A06, 0x24B4, 0x2183, 0x2EDA, 0x2BED],
     [0x1689, 0x13BE, 0x1CE7, 0x19D0, 0x0762, 0x0255, 0x0D0C, 0x083B]] ∧
  ((List.range 34).map fun i => versionBits (i + 7)) =
    [0x07C94, 0x085BC, 0x09A99, 0x0A4D3, 0x0BBF6, 0x0C762, 0x0D847, 0x0E60D, 0x0F928, 0x10B78,
     0x1145D, 0x12A17] ++
    [0x13532, 0x149A6, 0x15683, 0x168C9, 0x177EC, 0x18EC4, 0x191E1, 0x1AFAB, 0x1B08E, 0x1CC1A,
     0x1D33F, 0x1ED75] ++
    [0x1F250, 0x209D5, 0x216F0, 0x228BA, 0x2379F, 0x24B0B, 0x2542E, 0x26A64, 0x27541, 0x28C69] ∧
  ((List.range 40).map fun i => [Level.l, .m, .q, .h].map fun e => eccLength e (i + 1)) =
    [[7, 10, 13, 17], [10, 16, 22, 28], [15, 26, 18, 22], [20, 18, 26, 16], [26, 24, 18, 22],
     [18, 16, 24, 28], [20, 18, 18, 26], [24, 22, 22, 26], [30, 22, 20, 24], [18, 26, 24, 28]] ++
    [[20, 30, 28, 24], [24, 22, 26, 28], [26, 22, 24, 22], [30, 24, 20, 24], [22, 24, 30, 24],
     [24, 28, 24, 30], [28, 28, 28, 28], [30, 26, 28, 28], [28, 26, 26, 26], [28, 26, 30, 28]] ++
    [[28, 26, 28, 30], [28, 28, 30, 24], [30, 28, 30, 30], [30, 28, 30, 30], [26, 28, 30, 30],
     [28, 28, 28, 30], [30, 28, 30, 30], [30, 28, 30, 30], [30, 28, 30, 30], [30, 28, 30, 30]] ++
    [[30, 28, 30, 30], [30, 28, 30, 30], [30, 28, 30, 30], [30, 28, 30, 30], [30, 28, 30, 30],
     [30, 28, 30, 30], [30, 28, 30, 30], [30, 28, 30, 30], [30, 28, 30, 30], [30, 28, 30, 30]] ∧
  ((List.range 40).map fun i => [Level.l, .m, .q, .h].map fun e => blockCount e (i + 1)) =
    [[1, 1, 1, 1], [1, 1, 1, 1], [1, 1, 2, 2], [1, 2, 2, 4], [1, 2, 4, 4],
     [2, 4, 4, 4], [2, 4, 6, 5], [2, 4, 6, 6], [2, 5, 8, 8], [4, 5, 8, 8]] ++
    [[4, 5, 8, 11], [4, 8, 10, 11], [4, 9, 12, 16], [4, 9, 16, 16], [6, 10, 12, 18],
     [6, 10, 17, 16], [6, 11, 16, 19], [6, 13, 18, 21], [7, 14, 21, 25], [8, 16, 20, 25]] ++
    [[8, 17, 23, 25], [9, 17, 23, 34], [9, 18, 25, 30], [10, 20, 27, 32], [12, 21, 29, 35],
     [12, 23, 34, 37], [12, 25, 34, 40], [13, 26, 35, 42], [14, 28, 38, 45], [15, 29, 40, 48]] ++
    [[16, 31, 43, 51], [17, 33, 45, 54], [18, 35, 48, 57], [19, 37, 51, 60], [19, 38, 53, 63],
     [20, 40, 56, 66], [21, 43, 59, 70], [22, 45, 62, 74], [24, 47, 65, 77], [25, 49, 68, 81]] ∧
  ((List.range 40).map fun i =>
    let v := i + 1
    [sideLength v, versionBucket v, rawModules v, rawModules v / 8, rawModules v % 8] ++
      [Level.l, .m, .q, .h].map fun e => dataCodewords e v) =
    [[21, 0, 208, 26, 0, 19, 16, 13, 9], [25, 0, 359, 44, 7, 34, 28, 22, 16],
     [29, 0, 567, 70, 7, 55, 44, 34, 26], [33, 0, 807, 100, 7, 80, 64, 48, 36],
     [37, 0, 1079, 134, 7, 108, 86, 62, 46], [41, 0, 1383, 172, 7, 136, 108, 76, 60],
     [45, 0, 1568, 196, 0, 156, 124, 88, 66], [49, 0, 1936, 242, 0, 194, 154, 110, 86],
     [53, 0, 2336, 292, 0, 232, 182, 132, 100], [57, 1, 2768, 346, 0, 274, 216, 154, 122]] ++
    [[61, 1, 3232, 404, 0, 324, 254, 180, 140], [65, 1, 3728, 466, 0, 370, 290, 206, 158],
     [69, 1, 4256, 532, 0, 428, 334, 244, 180], [73, 1, 4651, 581, 3, 461, 365, 261, 197],
     [77, 1, 5243, 655, 3, 523, 415, 295, 223], [81, 1, 5867, 733, 3, 589, 453, 325, 253],
     [85, 1, 6523, 815, 3, 647, 507, 367, 283], [89, 1, 7211, 901, 3, 721, 563, 397, 313],
     [93, 1, 7931, 991, 3, 795, 627, 445, 341], [97, 1, 8683, 1085, 3, 861, 669, 485, 385]] ++
    [[101, 1, 9252, 1156, 4, 932, 714, 512, 406], [105, 1, 10068, 1258, 4, 1006, 782, 568, 442],
     [109, 1, 10916, 1364, 4, 1094, 860, 614, 464], [113, 1, 11796, 1474, 4, 1174, 914, 664, 514],
     [117, 1, 12708, 1588, 4, 1276, 1000, 718, 538], [121, 1, 13652, 1706, 4, 1370, 1062, 754, 596],
     [125, 2, 14628, 1828, 4, 1468, 1128, 808, 628], [129, 2, 15371, 1921, 3, 1531, 1193, 871, 661],
     [133, 2, 16411, 2051, 3, 1631, 1267, 911, 701], [137, 2, 17483, 2185, 3, 1735, 1373, 985, 745]] ++
    [[141, 2, 18587, 2323, 3, 1843, 1455, 1033, 793], [145, 2, 19723, 2465, 3, 1955, 1541, 1115, 845],
     [149, 2, 20891, 2611, 3, 2071, 1631, 1171, 901], [153, 2, 22091, 2761, 3, 2191, 1725, 1231, 961],
     [157, 2, 23008, 2876, 0, 2306, 1812, 1286, 986], [161, 2, 24272, 3034, 0, 2434, 1914, 1354, 1054],
     [165, 2, 25568, 3196, 0, 2566, 1992, 1426, 1096], [169, 2, 26896, 3362, 0, 2702, 2102, 1502, 1142],
     [173, 2, 28256, 3532, 0, 2812, 2216, 1582, 1222], [177, 2, 29648, 3706, 0, 2956, 2334, 1666, 1276]]

/-- R255, R256: PLACE in INTERLEAVED completes for every version and level: the placement assertion
never fires; only the S by S square is written. -/
def Obligations.PlaceAlwaysCompletes : Prop :=
  ∀ s : State, s.phase = .interleaved → Configured s →
    ∃ t, exec .place s = .next t ∧
      t = { s with matrix := t.matrix, phase := .placed } ∧
      SameOutside s.size.toNat s.matrix t.matrix

/-- R242, R243, R246, R247, R249, R252: after PLACE every function pattern is in the matrix: the
timing lines between the finders, the three finders with their separators, the alignment patterns,
the mask-0 format bits, the version blocks and the dark module. -/
def Obligations.PlaceDrawsEveryFunctionPattern : Prop :=
  ∀ s t : State, s.phase = .interleaved → Configured s → exec .place s = .next t →
    let side := s.size.toNat
    (∀ i, 8 ≤ i → i + 8 < side →
      cell t.matrix.mod 6 i = (i % 2 == 0) ∧ cell t.matrix.fn 6 i = true ∧
      cell t.matrix.mod i 6 = (i % 2 == 0) ∧ cell t.matrix.fn i 6 = true) ∧
    (∀ c ∈ [(3, 3), (side - 4, 3), (3, side - 4)], ∀ x < side, ∀ y < side,
      chebyshev ((x : Int) - (c.1 : Nat)) ((y : Int) - (c.2 : Nat)) ≤ 4 →
      cell t.matrix.fn x y = true ∧ cell t.matrix.mod x y =
        decide (chebyshev ((x : Int) - (c.1 : Nat)) ((y : Int) - (c.2 : Nat)) ≠ 2 ∧
          chebyshev ((x : Int) - (c.1 : Nat)) ((y : Int) - (c.2 : Nat)) ≠ 4)) ∧
    (∀ c ∈ alignCentres s.version.toNat, ∀ x < side, ∀ y < side,
      chebyshev ((x : Int) - (c.1 : Nat)) ((y : Int) - (c.2 : Nat)) ≤ 2 →
      cell t.matrix.fn x y = true ∧ cell t.matrix.mod x y =
        decide (chebyshev ((x : Int) - (c.1 : Nat)) ((y : Int) - (c.2 : Nat)) ≠ 1)) ∧
    (∀ d ∈ formatDraws side s.ecl 0 ++ versionDraws side s.version.toNat,
      cell t.matrix.fn d.x d.y = true ∧ cell t.matrix.mod d.x d.y = d.dark) ∧
    cell t.matrix.fn 8 (side - 8) = true ∧ cell t.matrix.mod 8 (side - 8) = true

/-- R253, R254: after PLACE the free cells, in zig-zag order, hold the stream bits, and the cells left
over are light; there are `S_RAWBITS` of them (R43). -/
def Obligations.PlaceFillsFreeCellsInZigzagOrder : Prop :=
  ∀ s t : State, s.phase = .interleaved → Configured s → exec .place s = .next t →
    (freePath s).length = s.rawBits.toNat ∧
    ∀ i p, (freePath s)[i]? = some p →
      cell t.matrix.fn p.1 p.2 = false ∧
      cell t.matrix.mod p.1 p.2 = (decide (i < 8 * s.raw.toNat) && streamBit s.stream i)

/-- R253, R257: the zig-zag path of every version visits each cell outside column 6 exactly once. -/
def Obligations.ZigzagVisitsEachCellOnce : Prop :=
  ∀ v, 1 ≤ v → v ≤ 40 →
    (zigzag (sideLength v)).Nodup ∧
    ∀ x y, (x, y) ∈ zigzag (sideLength v) ↔ x < sideLength v ∧ y < sideLength v ∧ x ≠ 6

/-! ### Masking -/

/-- R283: applying a mask twice restores the matrix. -/
def Obligations.MaskAppliedTwiceIsTheIdentity : Prop :=
  ∀ (k side : Nat) (m : Matrix), applyMask k side (applyMask k side m) = m

/-- R285: a line's share of P1 is the closed form over its maximal runs. -/
def Obligations.RunsScoreThreePlusExcess : Prop :=
  ∀ (side : Nat) (cells : List Bool),
    (scanLine side cells).p1 =
      ((cells.splitBy (· == ·)).map fun r => if r.length ≥ 5 then 3 + (r.length - 5) else 0).sum

/-- R280 to R282, R284 to R291: a mask inverts exactly the free cells of the square its condition
holds at and touches no flag; the penalty of a symbol is the sum of its four terms, the finder-like
occurrences counted over windows of seven runs between light borders (a closed reading, DEDUCED, of the
sliding history of R286 to R289). -/
def Obligations.MasksAndPenaltyFollowTheirRules : Prop :=
  (∀ k < 8, ∀ (v : Nat) (m : Matrix), 1 ≤ v → v ≤ 40 →
    let side := sideLength v
    (applyMask k side m).fn = m.fn ∧
    ∀ x y, cell (applyMask k side m).mod x y =
      (cell m.mod x y ^^ (decide (x < side ∧ y < side) && !cell m.fn x y &&
        (maskConditions[k]?.getD fun _ _ => false) x y))) ∧
  (∀ (side : Nat) (cells : List Bool),
    linePenalty side cells = runScore cells + 40 * lineFinders side cells) ∧
  (∀ (v : Nat) (g : Grid), 1 ≤ v → v ≤ 40 →
    penalty (sideLength v) g = .ok (fourTerms (sideLength v) g))

/-- R292: for a symbol's odd side and any dark count, k of the balance term is in 0..9. -/
def Obligations.BalanceBandIsZeroToNine : Prop :=
  ∀ v d : Nat, d ≤ sideLength v * sideLength v →
    1 ≤ balanceCeiling (sideLength v) d ∧ balanceCeiling (sideLength v) d - 1 ≤ 9

/-- R293, R298: no penalty of a symbol raises *Internal*; every penalty is at most `PEN_BOUND`. -/
def Obligations.PenaltyNeverExceedsItsBound : Prop :=
  ∀ (v : Nat) (g : Grid), 1 ≤ v → v ≤ 40 →
    ∃ p, penalty (sideLength v) g = .ok p ∧ p ≤ 5195928

/-- R294: with automatic selection MASK records the penalty of each masked matrix and chooses the
lowest, the smallest id among equals; the search leaves the matrix as it was. -/
def Obligations.AutoSelectionTakesTheLowestPenalty : Prop :=
  ∀ s t : State, s.phase = .placed → s.maskAuto = true → exec .mask s = .next t → t.phase = .done →
    t.penValid = 0xFF#8 ∧
    (∀ k < 8, penalty s.size.toNat (applyMask k s.size.toNat s.matrix).mod =
      .ok (penaltyOf t.pen k)) ∧
    (∀ j < 8, penaltyOf t.pen t.chosen.toNat ≤ penaltyOf t.pen j) ∧
    (∀ j < t.chosen.toNat, penaltyOf t.pen t.chosen.toNat < penaltyOf t.pen j) ∧
    t.matrix = finalMatrix s.size.toNat s.version.toNat s.ecl t.chosen.toNat s.matrix

/-- R297: with a fixed mask MASK computes no penalty and cannot fail: it completes in PLACED whatever
the matrix. -/
def Obligations.FixedMaskScoresNothing : Prop :=
  ∀ s : State, s.phase = .placed → s.maskAuto = false →
    ∃ t, exec .mask s = .next t ∧ t.phase = .done ∧ t.chosen = s.maskId ∧
      t.pen = s.pen ∧ t.penValid = s.penValid

/-- R296: MASK in PLACED completes for every version and level. The free cells are inverted where the
chosen mask holds, the format and version cells carry the level's and the mask's bits, every other
cell and every flag stays. -/
def Obligations.MaskAlwaysCompletes : Prop :=
  ∀ s : State, s.phase = .placed → Configured s → FlagsOk s →
    ∃ t, exec .mask s = .next t ∧
      t = { s with
        matrix := t.matrix
        pen := t.pen
        penValid := if s.maskAuto then 0xFF#8 else s.penValid
        chosen := t.chosen
        dark := BitVec.ofNat 15 (darkCount s.size.toNat t.matrix.mod)
        resultValid := true
        phase := .done } ∧
      t.dark.toNat = darkCount s.size.toNat t.matrix.mod ∧
      (∀ x y, cell t.matrix.fn x y = cell s.matrix.fn x y) ∧
      (∀ d ∈ formatDraws s.size.toNat s.ecl t.chosen.toNat ++
          versionDraws s.size.toNat s.version.toNat, cell t.matrix.mod d.x d.y = d.dark) ∧
      (∀ x < s.size.toNat, ∀ y < s.size.toNat, cell s.matrix.fn x y = false →
        cell t.matrix.mod x y = (cell s.matrix.mod x y ^^ maskAt t.chosen.toNat x y)) ∧
      (∀ x < s.size.toNat, ∀ y < s.size.toNat, cell s.matrix.fn x y = true →
        drawn (formatDraws s.size.toNat s.ecl 0 ++ versionDraws s.size.toNat s.version.toNat) x y =
          false →
        cell t.matrix.mod x y = cell s.matrix.mod x y) ∧
      SameOutside s.size.toNat s.matrix t.matrix

/-! ### RUN -/

/-- R140: RUN is FINISH, ECC, PLACE and MASK in that order: where the four commands succeed one after
another, RUN gives their final state; where FINISH, or after it PLACE or MASK, would fail, the whole
RUN fails with that code and its own opcode. ECC after FINISH cannot fail. -/
def Obligations.RunIsTheFourCommandsInOrder : Prop :=
  (∀ s₀ s₁ s₂ s₃ s₄ : State, s₀.phase = .framing →
    exec .finish s₀ = .next s₁ → s₁.phase = .padded →
    exec .ecc s₁ = .next s₂ → s₂.phase = .interleaved →
    exec .place s₂ = .next s₃ → s₃.phase = .placed →
    exec .mask s₃ = .next s₄ → s₄.phase = .done →
    exec .run s₀ = .next s₄) ∧
  (∀ s t : State, s.phase ≠ .error → exec .finish s = .next t → t.phase = .error →
    exec .run s = .next (errorEntry t.err 0x3F s)) ∧
  (∀ s₀ s₁ : State, s₀.phase = .framing → exec .finish s₀ = .next s₁ → s₁.phase = .padded →
    ∃ s₂, exec .ecc s₁ = .next s₂ ∧ s₂.phase = .interleaved ∧
      ∀ s₃, exec .place s₂ = .next s₃ →
        (s₃.phase = .error → exec .run s₀ = .next (errorEntry s₃.err 0x3F s₀)) ∧
        (s₃.phase ≠ .error → ∀ s₄, exec .mask s₃ = .next s₄ → s₄.phase = .error →
          exec .run s₀ = .next (errorEntry s₄.err 0x3F s₀)))

/-- RUN between segments always completes in a state of the invariant, whatever the version, the level
and the bits framed; it writes only what its four commands write: of the arrays, the first `S_DATA`
codewords, the first `S_RAW` entries of the stream and the S by S square (R140, R256, R293). -/
def Obligations.RunAlwaysCompletes : Prop :=
  ∀ s : State, Inv s → s.phase = .framing → s.segOpen = false →
    ∃ t, exec .run s = .next t ∧
      t = { s with
        bitBuf := paddedBits (8 * s.data.toNat) s.bitBuf
        bitLen := BitVec.ofNat 15 (8 * s.data.toNat)
        dataCw := t.dataCw
        stream := t.stream
        matrix := t.matrix
        pen := t.pen
        penValid := if s.maskAuto then 0xFF#8 else s.penValid
        chosen := t.chosen
        dark := t.dark
        resultValid := true
        phase := .done } ∧
      (∀ j, s.data.toNat ≤ j → entry t.dataCw j = entry s.dataCw j) ∧
      (∀ p, s.raw.toNat ≤ p → entry t.stream p = entry s.stream p) ∧
      SameOutside s.size.toNat s.matrix t.matrix

/-- The finished symbol carries the codeword stream: every free cell, in zig-zag order, is the stream
bit (light past the stream's end) inverted where the chosen mask holds (R140, R253, R282, R296). -/
def Obligations.FinishedSymbolCarriesTheStream : Prop :=
  ∀ s t : State, Inv s → s.phase = .framing → exec .run s = .next t → t.phase = .done →
    ∀ i p, (freePath s)[i]? = some p →
      cell t.matrix.mod p.1 p.2 =
        ((decide (i < 8 * s.raw.toNat) && streamBit t.stream i) ^^ maskAt t.chosen.toNat p.1 p.2)

/-! ### Invariants -/

/-- The state after reset meets the invariants. -/
def Obligations.ResetMeetsTheInvariant : Prop := Inv State.reset ∧ FlagsOk State.reset

/-- Every step from every state of the invariant stays in it: configuration and geometry by phase, the
buffer's length and capacity, the held group, the error fields, the result fields, the array shapes. -/
def Obligations.StepKeepsTheInvariant : Prop :=
  ∀ s t : State, Inv s → step s = .next t → Inv t

/-- Every step keeps the function flags of PLACED and DONE exact: FN is set on the function cells of
the version and on no other cell of the symbol (R49, R257). -/
def Obligations.StepKeepsFunctionFlagsExact : Prop :=
  ∀ s t : State, Inv s → FlagsOk s → step s = .next t → FlagsOk t

/-- R76: array contents that no command has written since reset are never observed: two states that
differ only in them answer every host event alike, the word a read returns included, and again differ
only in such contents. -/
def Obligations.UnwrittenArraysAreNeverObserved : Prop :=
  ∀ s t s' : State, ConfigOk s → SameButUnwritten s t → step s = .next s' →
    ∃ t', step t = .next t' ∧ SameButUnwritten s' t'
end

