-- ==== Sys2Proof/Laws/State.lean ====
section
/-! SUPPORT. One lemma per field per named update of State, so that no proof unfolds a record update. -/

namespace Sys2Proof.Machine

/-! ### errorEntry -/

@[simp] theorem errorEntry_phase (c : ErrCode) (op : Byte) (s : State) :
    (errorEntry c op s).phase = .error := rfl
@[simp] theorem errorEntry_err (c : ErrCode) (op : Byte) (s : State) :
    (errorEntry c op s).err = c := rfl
@[simp] theorem errorEntry_errOp (c : ErrCode) (op : Byte) (s : State) :
    (errorEntry c op s).errOp = op := rfl
@[simp] theorem errorEntry_version (c : ErrCode) (op : Byte) (s : State) :
    (errorEntry c op s).version = s.version := rfl
@[simp] theorem errorEntry_ecl (c : ErrCode) (op : Byte) (s : State) :
    (errorEntry c op s).ecl = s.ecl := rfl
@[simp] theorem errorEntry_maskId (c : ErrCode) (op : Byte) (s : State) :
    (errorEntry c op s).maskId = s.maskId := rfl
@[simp] theorem errorEntry_maskAuto (c : ErrCode) (op : Byte) (s : State) :
    (errorEntry c op s).maskAuto = s.maskAuto := rfl
@[simp] theorem errorEntry_fnc1 (c : ErrCode) (op : Byte) (s : State) :
    (errorEntry c op s).fnc1 = s.fnc1 := rfl
@[simp] theorem errorEntry_size (c : ErrCode) (op : Byte) (s : State) :
    (errorEntry c op s).size = s.size := rfl
@[simp] theorem errorEntry_bucket (c : ErrCode) (op : Byte) (s : State) :
    (errorEntry c op s).bucket = s.bucket := rfl
@[simp] theorem errorEntry_rawBits (c : ErrCode) (op : Byte) (s : State) :
    (errorEntry c op s).rawBits = s.rawBits := rfl
@[simp] theorem errorEntry_raw (c : ErrCode) (op : Byte) (s : State) :
    (errorEntry c op s).raw = s.raw := rfl
@[simp] theorem errorEntry_blocks (c : ErrCode) (op : Byte) (s : State) :
    (errorEntry c op s).blocks = s.blocks := rfl
@[simp] theorem errorEntry_eccLen (c : ErrCode) (op : Byte) (s : State) :
    (errorEntry c op s).eccLen = s.eccLen := rfl
@[simp] theorem errorEntry_data (c : ErrCode) (op : Byte) (s : State) :
    (errorEntry c op s).data = s.data := rfl
@[simp] theorem errorEntry_arg (c : ErrCode) (op : Byte) (s : State) :
    (errorEntry c op s).arg = s.arg := rfl
@[simp] theorem errorEntry_bitBuf (c : ErrCode) (op : Byte) (s : State) :
    (errorEntry c op s).bitBuf = s.bitBuf := rfl
@[simp] theorem errorEntry_bitLen (c : ErrCode) (op : Byte) (s : State) :
    (errorEntry c op s).bitLen = s.bitLen := rfl
@[simp] theorem errorEntry_segOpen (c : ErrCode) (op : Byte) (s : State) :
    (errorEntry c op s).segOpen = s.segOpen := rfl
@[simp] theorem errorEntry_segMode (c : ErrCode) (op : Byte) (s : State) :
    (errorEntry c op s).segMode = s.segMode := rfl
@[simp] theorem errorEntry_remain (c : ErrCode) (op : Byte) (s : State) :
    (errorEntry c op s).remain = s.remain := rfl
@[simp] theorem errorEntry_pendN (c : ErrCode) (op : Byte) (s : State) :
    (errorEntry c op s).pendN = s.pendN := rfl
@[simp] theorem errorEntry_pendVal (c : ErrCode) (op : Byte) (s : State) :
    (errorEntry c op s).pendVal = s.pendVal := rfl
@[simp] theorem errorEntry_fnc1Done (c : ErrCode) (op : Byte) (s : State) :
    (errorEntry c op s).fnc1Done = s.fnc1Done := rfl
@[simp] theorem errorEntry_saDone (c : ErrCode) (op : Byte) (s : State) :
    (errorEntry c op s).saDone = s.saDone := rfl
@[simp] theorem errorEntry_dataSeen (c : ErrCode) (op : Byte) (s : State) :
    (errorEntry c op s).dataSeen = s.dataSeen := rfl
@[simp] theorem errorEntry_dataCw (c : ErrCode) (op : Byte) (s : State) :
    (errorEntry c op s).dataCw = s.dataCw := rfl
@[simp] theorem errorEntry_stream (c : ErrCode) (op : Byte) (s : State) :
    (errorEntry c op s).stream = s.stream := rfl
@[simp] theorem errorEntry_matrix (c : ErrCode) (op : Byte) (s : State) :
    (errorEntry c op s).matrix = s.matrix := rfl
@[simp] theorem errorEntry_pen (c : ErrCode) (op : Byte) (s : State) :
    (errorEntry c op s).pen = s.pen := rfl
@[simp] theorem errorEntry_penValid (c : ErrCode) (op : Byte) (s : State) :
    (errorEntry c op s).penValid = s.penValid := rfl
@[simp] theorem errorEntry_chosen (c : ErrCode) (op : Byte) (s : State) :
    (errorEntry c op s).chosen = s.chosen := rfl
@[simp] theorem errorEntry_resultValid (c : ErrCode) (op : Byte) (s : State) :
    (errorEntry c op s).resultValid = s.resultValid := rfl
@[simp] theorem errorEntry_dark (c : ErrCode) (op : Byte) (s : State) :
    (errorEntry c op s).dark = s.dark := rfl
@[simp] theorem errorEntry_modX (c : ErrCode) (op : Byte) (s : State) :
    (errorEntry c op s).modX = s.modX := rfl
@[simp] theorem errorEntry_modY (c : ErrCode) (op : Byte) (s : State) :
    (errorEntry c op s).modY = s.modY := rfl
@[simp] theorem errorEntry_cwIdx (c : ErrCode) (op : Byte) (s : State) :
    (errorEntry c op s).cwIdx = s.cwIdx := rfl
@[simp] theorem errorEntry_pending (c : ErrCode) (op : Byte) (s : State) :
    (errorEntry c op s).pending = s.pending := rfl
@[simp] theorem errorEntry_readData (c : ErrCode) (op : Byte) (s : State) :
    (errorEntry c op s).readData = s.readData := rfl

/-! ### resetElements -/

@[simp] theorem resetElements_phase (s : State) :
    (resetElements s).phase = State.reset.phase := rfl
@[simp] theorem resetElements_err (s : State) :
    (resetElements s).err = State.reset.err := rfl
@[simp] theorem resetElements_errOp (s : State) :
    (resetElements s).errOp = State.reset.errOp := rfl
@[simp] theorem resetElements_version (s : State) :
    (resetElements s).version = State.reset.version := rfl
@[simp] theorem resetElements_ecl (s : State) :
    (resetElements s).ecl = State.reset.ecl := rfl
@[simp] theorem resetElements_maskId (s : State) :
    (resetElements s).maskId = State.reset.maskId := rfl
@[simp] theorem resetElements_maskAuto (s : State) :
    (resetElements s).maskAuto = State.reset.maskAuto := rfl
@[simp] theorem resetElements_fnc1 (s : State) :
    (resetElements s).fnc1 = State.reset.fnc1 := rfl
@[simp] theorem resetElements_size (s : State) :
    (resetElements s).size = State.reset.size := rfl
@[simp] theorem resetElements_bucket (s : State) :
    (resetElements s).bucket = State.reset.bucket := rfl
@[simp] theorem resetElements_rawBits (s : State) :
    (resetElements s).rawBits = State.reset.rawBits := rfl
@[simp] theorem resetElements_raw (s : State) :
    (resetElements s).raw = State.reset.raw := rfl
@[simp] theorem resetElements_blocks (s : State) :
    (resetElements s).blocks = State.reset.blocks := rfl
@[simp] theorem resetElements_eccLen (s : State) :
    (resetElements s).eccLen = State.reset.eccLen := rfl
@[simp] theorem resetElements_data (s : State) :
    (resetElements s).data = State.reset.data := rfl
@[simp] theorem resetElements_arg (s : State) :
    (resetElements s).arg = State.reset.arg := rfl
@[simp] theorem resetElements_bitBuf (s : State) :
    (resetElements s).bitBuf = State.reset.bitBuf := rfl
@[simp] theorem resetElements_bitLen (s : State) :
    (resetElements s).bitLen = State.reset.bitLen := rfl
@[simp] theorem resetElements_segOpen (s : State) :
    (resetElements s).segOpen = State.reset.segOpen := rfl
@[simp] theorem resetElements_segMode (s : State) :
    (resetElements s).segMode = State.reset.segMode := rfl
@[simp] theorem resetElements_remain (s : State) :
    (resetElements s).remain = State.reset.remain := rfl
@[simp] theorem resetElements_pendN (s : State) :
    (resetElements s).pendN = State.reset.pendN := rfl
@[simp] theorem resetElements_pendVal (s : State) :
    (resetElements s).pendVal = State.reset.pendVal := rfl
@[simp] theorem resetElements_fnc1Done (s : State) :
    (resetElements s).fnc1Done = State.reset.fnc1Done := rfl
@[simp] theorem resetElements_saDone (s : State) :
    (resetElements s).saDone = State.reset.saDone := rfl
@[simp] theorem resetElements_dataSeen (s : State) :
    (resetElements s).dataSeen = State.reset.dataSeen := rfl
@[simp] theorem resetElements_dataCw (s : State) :
    (resetElements s).dataCw = State.reset.dataCw := rfl
@[simp] theorem resetElements_stream (s : State) :
    (resetElements s).stream = State.reset.stream := rfl
@[simp] theorem resetElements_matrix (s : State) :
    (resetElements s).matrix = State.reset.matrix := rfl
@[simp] theorem resetElements_pen (s : State) :
    (resetElements s).pen = State.reset.pen := rfl
@[simp] theorem resetElements_penValid (s : State) :
    (resetElements s).penValid = State.reset.penValid := rfl
@[simp] theorem resetElements_chosen (s : State) :
    (resetElements s).chosen = State.reset.chosen := rfl
@[simp] theorem resetElements_resultValid (s : State) :
    (resetElements s).resultValid = State.reset.resultValid := rfl
@[simp] theorem resetElements_dark (s : State) :
    (resetElements s).dark = State.reset.dark := rfl
@[simp] theorem resetElements_modX (s : State) :
    (resetElements s).modX = State.reset.modX := rfl
@[simp] theorem resetElements_modY (s : State) :
    (resetElements s).modY = State.reset.modY := rfl
@[simp] theorem resetElements_cwIdx (s : State) :
    (resetElements s).cwIdx = State.reset.cwIdx := rfl
@[simp] theorem resetElements_pending (s : State) :
    (resetElements s).pending = s.pending := rfl
@[simp] theorem resetElements_readData (s : State) :
    (resetElements s).readData = s.readData := rfl

/-! ### openSegment -/

@[simp] theorem openSegment_phase (mode : Mode) (count : BitVec 16) (s : State) :
    (openSegment mode count s).phase = s.phase := rfl
@[simp] theorem openSegment_err (mode : Mode) (count : BitVec 16) (s : State) :
    (openSegment mode count s).err = s.err := rfl
@[simp] theorem openSegment_errOp (mode : Mode) (count : BitVec 16) (s : State) :
    (openSegment mode count s).errOp = s.errOp := rfl
@[simp] theorem openSegment_version (mode : Mode) (count : BitVec 16) (s : State) :
    (openSegment mode count s).version = s.version := rfl
@[simp] theorem openSegment_ecl (mode : Mode) (count : BitVec 16) (s : State) :
    (openSegment mode count s).ecl = s.ecl := rfl
@[simp] theorem openSegment_maskId (mode : Mode) (count : BitVec 16) (s : State) :
    (openSegment mode count s).maskId = s.maskId := rfl
@[simp] theorem openSegment_maskAuto (mode : Mode) (count : BitVec 16) (s : State) :
    (openSegment mode count s).maskAuto = s.maskAuto := rfl
@[simp] theorem openSegment_fnc1 (mode : Mode) (count : BitVec 16) (s : State) :
    (openSegment mode count s).fnc1 = s.fnc1 := rfl
@[simp] theorem openSegment_size (mode : Mode) (count : BitVec 16) (s : State) :
    (openSegment mode count s).size = s.size := rfl
@[simp] theorem openSegment_bucket (mode : Mode) (count : BitVec 16) (s : State) :
    (openSegment mode count s).bucket = s.bucket := rfl
@[simp] theorem openSegment_rawBits (mode : Mode) (count : BitVec 16) (s : State) :
    (openSegment mode count s).rawBits = s.rawBits := rfl
@[simp] theorem openSegment_raw (mode : Mode) (count : BitVec 16) (s : State) :
    (openSegment mode count s).raw = s.raw := rfl
@[simp] theorem openSegment_blocks (mode : Mode) (count : BitVec 16) (s : State) :
    (openSegment mode count s).blocks = s.blocks := rfl
@[simp] theorem openSegment_eccLen (mode : Mode) (count : BitVec 16) (s : State) :
    (openSegment mode count s).eccLen = s.eccLen := rfl
@[simp] theorem openSegment_data (mode : Mode) (count : BitVec 16) (s : State) :
    (openSegment mode count s).data = s.data := rfl
@[simp] theorem openSegment_arg (mode : Mode) (count : BitVec 16) (s : State) :
    (openSegment mode count s).arg = s.arg := rfl
@[simp] theorem openSegment_bitBuf (mode : Mode) (count : BitVec 16) (s : State) :
    (openSegment mode count s).bitBuf = s.bitBuf := rfl
@[simp] theorem openSegment_bitLen (mode : Mode) (count : BitVec 16) (s : State) :
    (openSegment mode count s).bitLen = s.bitLen := rfl
@[simp] theorem openSegment_segOpen (mode : Mode) (count : BitVec 16) (s : State) :
    (openSegment mode count s).segOpen = decide (count.toNat > 0) := rfl
@[simp] theorem openSegment_segMode (mode : Mode) (count : BitVec 16) (s : State) :
    (openSegment mode count s).segMode = mode := rfl
@[simp] theorem openSegment_remain (mode : Mode) (count : BitVec 16) (s : State) :
    (openSegment mode count s).remain = count := rfl
@[simp] theorem openSegment_pendN (mode : Mode) (count : BitVec 16) (s : State) :
    (openSegment mode count s).pendN = 0 := rfl
@[simp] theorem openSegment_pendVal (mode : Mode) (count : BitVec 16) (s : State) :
    (openSegment mode count s).pendVal = 0 := rfl
@[simp] theorem openSegment_fnc1Done (mode : Mode) (count : BitVec 16) (s : State) :
    (openSegment mode count s).fnc1Done = s.fnc1Done := rfl
@[simp] theorem openSegment_saDone (mode : Mode) (count : BitVec 16) (s : State) :
    (openSegment mode count s).saDone = s.saDone := rfl
@[simp] theorem openSegment_dataSeen (mode : Mode) (count : BitVec 16) (s : State) :
    (openSegment mode count s).dataSeen = true := rfl
@[simp] theorem openSegment_dataCw (mode : Mode) (count : BitVec 16) (s : State) :
    (openSegment mode count s).dataCw = s.dataCw := rfl
@[simp] theorem openSegment_stream (mode : Mode) (count : BitVec 16) (s : State) :
    (openSegment mode count s).stream = s.stream := rfl
@[simp] theorem openSegment_matrix (mode : Mode) (count : BitVec 16) (s : State) :
    (openSegment mode count s).matrix = s.matrix := rfl
@[simp] theorem openSegment_pen (mode : Mode) (count : BitVec 16) (s : State) :
    (openSegment mode count s).pen = s.pen := rfl
@[simp] theorem openSegment_penValid (mode : Mode) (count : BitVec 16) (s : State) :
    (openSegment mode count s).penValid = s.penValid := rfl
@[simp] theorem openSegment_chosen (mode : Mode) (count : BitVec 16) (s : State) :
    (openSegment mode count s).chosen = s.chosen := rfl
@[simp] theorem openSegment_resultValid (mode : Mode) (count : BitVec 16) (s : State) :
    (openSegment mode count s).resultValid = s.resultValid := rfl
@[simp] theorem openSegment_dark (mode : Mode) (count : BitVec 16) (s : State) :
    (openSegment mode count s).dark = s.dark := rfl
@[simp] theorem openSegment_modX (mode : Mode) (count : BitVec 16) (s : State) :
    (openSegment mode count s).modX = s.modX := rfl
@[simp] theorem openSegment_modY (mode : Mode) (count : BitVec 16) (s : State) :
    (openSegment mode count s).modY = s.modY := rfl
@[simp] theorem openSegment_cwIdx (mode : Mode) (count : BitVec 16) (s : State) :
    (openSegment mode count s).cwIdx = s.cwIdx := rfl
@[simp] theorem openSegment_pending (mode : Mode) (count : BitVec 16) (s : State) :
    (openSegment mode count s).pending = s.pending := rfl
@[simp] theorem openSegment_readData (mode : Mode) (count : BitVec 16) (s : State) :
    (openSegment mode count s).readData = s.readData := rfl

/-! ### hold -/

@[simp] theorem hold_phase (n v : Nat) (s : State) :
    (hold n v s).phase = s.phase := rfl
@[simp] theorem hold_err (n v : Nat) (s : State) :
    (hold n v s).err = s.err := rfl
@[simp] theorem hold_errOp (n v : Nat) (s : State) :
    (hold n v s).errOp = s.errOp := rfl
@[simp] theorem hold_version (n v : Nat) (s : State) :
    (hold n v s).version = s.version := rfl
@[simp] theorem hold_ecl (n v : Nat) (s : State) :
    (hold n v s).ecl = s.ecl := rfl
@[simp] theorem hold_maskId (n v : Nat) (s : State) :
    (hold n v s).maskId = s.maskId := rfl
@[simp] theorem hold_maskAuto (n v : Nat) (s : State) :
    (hold n v s).maskAuto = s.maskAuto := rfl
@[simp] theorem hold_fnc1 (n v : Nat) (s : State) :
    (hold n v s).fnc1 = s.fnc1 := rfl
@[simp] theorem hold_size (n v : Nat) (s : State) :
    (hold n v s).size = s.size := rfl
@[simp] theorem hold_bucket (n v : Nat) (s : State) :
    (hold n v s).bucket = s.bucket := rfl
@[simp] theorem hold_rawBits (n v : Nat) (s : State) :
    (hold n v s).rawBits = s.rawBits := rfl
@[simp] theorem hold_raw (n v : Nat) (s : State) :
    (hold n v s).raw = s.raw := rfl
@[simp] theorem hold_blocks (n v : Nat) (s : State) :
    (hold n v s).blocks = s.blocks := rfl
@[simp] theorem hold_eccLen (n v : Nat) (s : State) :
    (hold n v s).eccLen = s.eccLen := rfl
@[simp] theorem hold_data (n v : Nat) (s : State) :
    (hold n v s).data = s.data := rfl
@[simp] theorem hold_arg (n v : Nat) (s : State) :
    (hold n v s).arg = s.arg := rfl
@[simp] theorem hold_bitBuf (n v : Nat) (s : State) :
    (hold n v s).bitBuf = s.bitBuf := rfl
@[simp] theorem hold_bitLen (n v : Nat) (s : State) :
    (hold n v s).bitLen = s.bitLen := rfl
@[simp] theorem hold_segOpen (n v : Nat) (s : State) :
    (hold n v s).segOpen = s.segOpen := rfl
@[simp] theorem hold_segMode (n v : Nat) (s : State) :
    (hold n v s).segMode = s.segMode := rfl
@[simp] theorem hold_remain (n v : Nat) (s : State) :
    (hold n v s).remain = s.remain := rfl
@[simp] theorem hold_pendN (n v : Nat) (s : State) :
    (hold n v s).pendN = BitVec.ofNat 2 n := rfl
@[simp] theorem hold_pendVal (n v : Nat) (s : State) :
    (hold n v s).pendVal = BitVec.ofNat 10 v := rfl
@[simp] theorem hold_fnc1Done (n v : Nat) (s : State) :
    (hold n v s).fnc1Done = s.fnc1Done := rfl
@[simp] theorem hold_saDone (n v : Nat) (s : State) :
    (hold n v s).saDone = s.saDone := rfl
@[simp] theorem hold_dataSeen (n v : Nat) (s : State) :
    (hold n v s).dataSeen = s.dataSeen := rfl
@[simp] theorem hold_dataCw (n v : Nat) (s : State) :
    (hold n v s).dataCw = s.dataCw := rfl
@[simp] theorem hold_stream (n v : Nat) (s : State) :
    (hold n v s).stream = s.stream := rfl
@[simp] theorem hold_matrix (n v : Nat) (s : State) :
    (hold n v s).matrix = s.matrix := rfl
@[simp] theorem hold_pen (n v : Nat) (s : State) :
    (hold n v s).pen = s.pen := rfl
@[simp] theorem hold_penValid (n v : Nat) (s : State) :
    (hold n v s).penValid = s.penValid := rfl
@[simp] theorem hold_chosen (n v : Nat) (s : State) :
    (hold n v s).chosen = s.chosen := rfl
@[simp] theorem hold_resultValid (n v : Nat) (s : State) :
    (hold n v s).resultValid = s.resultValid := rfl
@[simp] theorem hold_dark (n v : Nat) (s : State) :
    (hold n v s).dark = s.dark := rfl
@[simp] theorem hold_modX (n v : Nat) (s : State) :
    (hold n v s).modX = s.modX := rfl
@[simp] theorem hold_modY (n v : Nat) (s : State) :
    (hold n v s).modY = s.modY := rfl
@[simp] theorem hold_cwIdx (n v : Nat) (s : State) :
    (hold n v s).cwIdx = s.cwIdx := rfl
@[simp] theorem hold_pending (n v : Nat) (s : State) :
    (hold n v s).pending = s.pending := rfl
@[simp] theorem hold_readData (n v : Nat) (s : State) :
    (hold n v s).readData = s.readData := rfl

/-! ### latchConfig -/

@[simp] theorem latchConfig_phase (f : Fnc1) (auto : Bool) (id : BitVec 3) (e : Level) (v : BitVec 6)
    (s : State) :
    (latchConfig f auto id e v s).phase = .framing := rfl
@[simp] theorem latchConfig_err (f : Fnc1) (auto : Bool) (id : BitVec 3) (e : Level) (v : BitVec 6)
    (s : State) :
    (latchConfig f auto id e v s).err = s.err := rfl
@[simp] theorem latchConfig_errOp (f : Fnc1) (auto : Bool) (id : BitVec 3) (e : Level) (v : BitVec 6)
    (s : State) :
    (latchConfig f auto id e v s).errOp = s.errOp := rfl
@[simp] theorem latchConfig_version (f : Fnc1) (auto : Bool) (id : BitVec 3) (e : Level) (v : BitVec 6)
    (s : State) :
    (latchConfig f auto id e v s).version = v := rfl
@[simp] theorem latchConfig_ecl (f : Fnc1) (auto : Bool) (id : BitVec 3) (e : Level) (v : BitVec 6)
    (s : State) :
    (latchConfig f auto id e v s).ecl = e := rfl
@[simp] theorem latchConfig_maskId (f : Fnc1) (auto : Bool) (id : BitVec 3) (e : Level) (v : BitVec 6)
    (s : State) :
    (latchConfig f auto id e v s).maskId = (if auto then 0 else id) := rfl
@[simp] theorem latchConfig_maskAuto (f : Fnc1) (auto : Bool) (id : BitVec 3) (e : Level) (v : BitVec 6)
    (s : State) :
    (latchConfig f auto id e v s).maskAuto = auto := rfl
@[simp] theorem latchConfig_fnc1 (f : Fnc1) (auto : Bool) (id : BitVec 3) (e : Level) (v : BitVec 6)
    (s : State) :
    (latchConfig f auto id e v s).fnc1 = f := rfl
@[simp] theorem latchConfig_size (f : Fnc1) (auto : Bool) (id : BitVec 3) (e : Level) (v : BitVec 6)
    (s : State) :
    (latchConfig f auto id e v s).size = BitVec.ofNat 8 (sideLength v.toNat) := rfl
@[simp] theorem latchConfig_bucket (f : Fnc1) (auto : Bool) (id : BitVec 3) (e : Level) (v : BitVec 6)
    (s : State) :
    (latchConfig f auto id e v s).bucket = BitVec.ofNat 2 (versionBucket v.toNat) := rfl
@[simp] theorem latchConfig_rawBits (f : Fnc1) (auto : Bool) (id : BitVec 3) (e : Level) (v : BitVec 6)
    (s : State) :
    (latchConfig f auto id e v s).rawBits = BitVec.ofNat 15 (rawModules v.toNat) := rfl
@[simp] theorem latchConfig_raw (f : Fnc1) (auto : Bool) (id : BitVec 3) (e : Level) (v : BitVec 6)
    (s : State) :
    (latchConfig f auto id e v s).raw = BitVec.ofNat 12 (rawModules v.toNat / 8) := rfl
@[simp] theorem latchConfig_blocks (f : Fnc1) (auto : Bool) (id : BitVec 3) (e : Level) (v : BitVec 6)
    (s : State) :
    (latchConfig f auto id e v s).blocks = BitVec.ofNat 8 (blockCount e v.toNat) := rfl
@[simp] theorem latchConfig_eccLen (f : Fnc1) (auto : Bool) (id : BitVec 3) (e : Level) (v : BitVec 6)
    (s : State) :
    (latchConfig f auto id e v s).eccLen = BitVec.ofNat 8 (eccLength e v.toNat) := rfl
@[simp] theorem latchConfig_data (f : Fnc1) (auto : Bool) (id : BitVec 3) (e : Level) (v : BitVec 6)
    (s : State) :
    (latchConfig f auto id e v s).data = BitVec.ofNat 12 (dataCodewords e v.toNat) := rfl
@[simp] theorem latchConfig_arg (f : Fnc1) (auto : Bool) (id : BitVec 3) (e : Level) (v : BitVec 6)
    (s : State) :
    (latchConfig f auto id e v s).arg = s.arg := rfl
@[simp] theorem latchConfig_bitBuf (f : Fnc1) (auto : Bool) (id : BitVec 3) (e : Level) (v : BitVec 6)
    (s : State) :
    (latchConfig f auto id e v s).bitBuf = s.bitBuf := rfl
@[simp] theorem latchConfig_bitLen (f : Fnc1) (auto : Bool) (id : BitVec 3) (e : Level) (v : BitVec 6)
    (s : State) :
    (latchConfig f auto id e v s).bitLen = s.bitLen := rfl
@[simp] theorem latchConfig_segOpen (f : Fnc1) (auto : Bool) (id : BitVec 3) (e : Level) (v : BitVec 6)
    (s : State) :
    (latchConfig f auto id e v s).segOpen = s.segOpen := rfl
@[simp] theorem latchConfig_segMode (f : Fnc1) (auto : Bool) (id : BitVec 3) (e : Level) (v : BitVec 6)
    (s : State) :
    (latchConfig f auto id e v s).segMode = s.segMode := rfl
@[simp] theorem latchConfig_remain (f : Fnc1) (auto : Bool) (id : BitVec 3) (e : Level) (v : BitVec 6)
    (s : State) :
    (latchConfig f auto id e v s).remain = s.remain := rfl
@[simp] theorem latchConfig_pendN (f : Fnc1) (auto : Bool) (id : BitVec 3) (e : Level) (v : BitVec 6)
    (s : State) :
    (latchConfig f auto id e v s).pendN = s.pendN := rfl
@[simp] theorem latchConfig_pendVal (f : Fnc1) (auto : Bool) (id : BitVec 3) (e : Level) (v : BitVec 6)
    (s : State) :
    (latchConfig f auto id e v s).pendVal = s.pendVal := rfl
@[simp] theorem latchConfig_fnc1Done (f : Fnc1) (auto : Bool) (id : BitVec 3) (e : Level) (v : BitVec 6)
    (s : State) :
    (latchConfig f auto id e v s).fnc1Done = s.fnc1Done := rfl
@[simp] theorem latchConfig_saDone (f : Fnc1) (auto : Bool) (id : BitVec 3) (e : Level) (v : BitVec 6)
    (s : State) :
    (latchConfig f auto id e v s).saDone = s.saDone := rfl
@[simp] theorem latchConfig_dataSeen (f : Fnc1) (auto : Bool) (id : BitVec 3) (e : Level) (v : BitVec 6)
    (s : State) :
    (latchConfig f auto id e v s).dataSeen = s.dataSeen := rfl
@[simp] theorem latchConfig_dataCw (f : Fnc1) (auto : Bool) (id : BitVec 3) (e : Level) (v : BitVec 6)
    (s : State) :
    (latchConfig f auto id e v s).dataCw = s.dataCw := rfl
@[simp] theorem latchConfig_stream (f : Fnc1) (auto : Bool) (id : BitVec 3) (e : Level) (v : BitVec 6)
    (s : State) :
    (latchConfig f auto id e v s).stream = s.stream := rfl
@[simp] theorem latchConfig_matrix (f : Fnc1) (auto : Bool) (id : BitVec 3) (e : Level) (v : BitVec 6)
    (s : State) :
    (latchConfig f auto id e v s).matrix = s.matrix := rfl
@[simp] theorem latchConfig_pen (f : Fnc1) (auto : Bool) (id : BitVec 3) (e : Level) (v : BitVec 6)
    (s : State) :
    (latchConfig f auto id e v s).pen = s.pen := rfl
@[simp] theorem latchConfig_penValid (f : Fnc1) (auto : Bool) (id : BitVec 3) (e : Level) (v : BitVec 6)
    (s : State) :
    (latchConfig f auto id e v s).penValid = s.penValid := rfl
@[simp] theorem latchConfig_chosen (f : Fnc1) (auto : Bool) (id : BitVec 3) (e : Level) (v : BitVec 6)
    (s : State) :
    (latchConfig f auto id e v s).chosen = s.chosen := rfl
@[simp] theorem latchConfig_resultValid (f : Fnc1) (auto : Bool) (id : BitVec 3) (e : Level) (v : BitVec 6)
    (s : State) :
    (latchConfig f auto id e v s).resultValid = s.resultValid := rfl
@[simp] theorem latchConfig_dark (f : Fnc1) (auto : Bool) (id : BitVec 3) (e : Level) (v : BitVec 6)
    (s : State) :
    (latchConfig f auto id e v s).dark = s.dark := rfl
@[simp] theorem latchConfig_modX (f : Fnc1) (auto : Bool) (id : BitVec 3) (e : Level) (v : BitVec 6)
    (s : State) :
    (latchConfig f auto id e v s).modX = s.modX := rfl
@[simp] theorem latchConfig_modY (f : Fnc1) (auto : Bool) (id : BitVec 3) (e : Level) (v : BitVec 6)
    (s : State) :
    (latchConfig f auto id e v s).modY = s.modY := rfl
@[simp] theorem latchConfig_cwIdx (f : Fnc1) (auto : Bool) (id : BitVec 3) (e : Level) (v : BitVec 6)
    (s : State) :
    (latchConfig f auto id e v s).cwIdx = s.cwIdx := rfl
@[simp] theorem latchConfig_pending (f : Fnc1) (auto : Bool) (id : BitVec 3) (e : Level) (v : BitVec 6)
    (s : State) :
    (latchConfig f auto id e v s).pending = s.pending := rfl
@[simp] theorem latchConfig_readData (f : Fnc1) (auto : Bool) (id : BitVec 3) (e : Level) (v : BitVec 6)
    (s : State) :
    (latchConfig f auto id e v s).readData = s.readData := rfl

end Sys2Proof.Machine
end

