-- ==== Sys2Proof/Laws/Ops.lean ====
section
/-! SUPPORT. One lemma per shared operation of Machine/Ops.lean that says everything it can do. -/

namespace Sys2Proof.Machine

/-! ### Sequencing of command bodies -/

theorem bind_ok {α β : Type} {x : Except ErrCode α} {f : α → Except ErrCode β} {b : β} :
    (x >>= f) = .ok b ↔ ∃ a, x = .ok a ∧ f a = .ok b := by
  cases x with
  | error c => exact ⟨fun h => (nomatch h), fun ⟨_, h, _⟩ => (nomatch h)⟩
  | ok a => exact ⟨fun h => ⟨a, rfl, h⟩, fun ⟨_, h, h'⟩ => by cases h; exact h'⟩

theorem bind_error {α β : Type} {x : Except ErrCode α} {f : α → Except ErrCode β} {c : ErrCode} :
    (x >>= f) = .error c ↔ x = .error c ∨ ∃ a, x = .ok a ∧ f a = .error c := by
  cases x with
  | error d =>
    exact ⟨fun h => .inl (by cases h; rfl), fun h => by
      rcases h with h | ⟨_, h, _⟩
      · cases h; rfl
      · cases h⟩
  | ok a =>
    exact ⟨fun h => .inr ⟨a, rfl, h⟩, fun h => by
      rcases h with h | ⟨_, h, h'⟩
      · cases h
      · cases h; exact h'⟩

/-! ### How a command ends -/

/-- A command answers a next state, always one of three. -/
theorem command_cases (op : Byte) (body : State → Except ErrCode State) (s : State) :
    (s.phase = .error ∧ command op body s = .next s) ∨
    (s.phase ≠ .error ∧ ∃ t, body s = .ok t ∧ command op body s = .next t) ∨
    (s.phase ≠ .error ∧ ∃ c, body s = .error c ∧ command op body s = .next (errorEntry c op s)) := by
  unfold command
  by_cases h : s.phase = .error
  · exact .inl ⟨h, by rw [if_pos h]⟩
  · rw [if_neg h]
    cases hb : body s with
    | ok t => exact .inr (.inl ⟨h, t, rfl, rfl⟩)
    | error c => exact .inr (.inr ⟨h, c, rfl, rfl⟩)

theorem command_in_error {op : Byte} {body : State → Except ErrCode State} {s : State}
    (h : s.phase = .error) : command op body s = .next s := by
  rw [command, if_pos h]

theorem command_ok {op : Byte} {body : State → Except ErrCode State} {s t : State}
    (h : s.phase ≠ .error) (hb : body s = .ok t) : command op body s = .next t := by
  rw [command, if_neg h, hb]

theorem command_error {op : Byte} {body : State → Except ErrCode State} {s : State} {c : ErrCode}
    (h : s.phase ≠ .error) (hb : body s = .error c) :
    command op body s = .next (errorEntry c op s) := by
  rw [command, if_neg h, hb]

/-! ### The bit buffer -/

@[simp] theorem bitsOf_length (value n : Nat) : (bitsOf value n).length = n := by
  induction n with
  | zero => rfl
  | succ n ih => simp [bitsOf, ih]

theorem bitsOf_add (value m n : Nat) :
    bitsOf value (m + n) = bitsOf (value >>> n) m ++ bitsOf value n := by
  induction m with
  | zero => simp [bitsOf]
  | succ m ih =>
    rw [Nat.succ_add, bitsOf, bitsOf, ih, Nat.testBit_shiftRight, Nat.add_comm n m]
    rfl

/-- The state after an append that fits. -/
def appended (value n : Nat) (s : State) : State :=
  { s with
    bitBuf := s.bitBuf ++ bitsOf value n
    bitLen := BitVec.ofNat 15 (s.bitLen.toNat + n) }

/-- Everything `append_bits` can do: its three answers and when it gives each. -/
theorem appendBits_eq (value n : Nat) (s : State) :
    appendBits value n s =
      if n > 31 ∨ value >>> n ≠ 0 then .error .invalidArgument
      else if s.bitLen.toNat + n > 8 * s.data.toNat then .error .dataTooLong
      else .ok (appended value n s) := rfl

theorem appendBits_ok {value n : Nat} {s t : State} :
    appendBits value n s = .ok t ↔
      n ≤ 31 ∧ value >>> n = 0 ∧ s.bitLen.toNat + n ≤ 8 * s.data.toNat ∧ t = appended value n s := by
  rw [appendBits_eq]
  split
  · next h => exact ⟨fun h' => (nomatch h'), fun ⟨h₁, h₂, _⟩ => by omega⟩
  · next h =>
    split
    · exact ⟨fun h' => (nomatch h'), fun ⟨_, _, h₃, _⟩ => by omega⟩
    · refine ⟨fun h' => ?_, fun ⟨_, _, _, h₄⟩ => by rw [h₄]⟩
      injection h' with h'
      exact ⟨by omega, by omega, by omega, h'.symm⟩

/-- The length register never wraps: the capacity is below 2^15 (spec/20_memory.md R82). -/
theorem appended_bitLen {value n : Nat} {s : State} (h : s.bitLen.toNat + n ≤ 8 * s.data.toNat) :
    (appended value n s).bitLen.toNat = s.bitLen.toNat + n := by
  have := s.data.isLt
  simp only [appended, BitVec.toNat_ofNat]
  omega

/-! ### Arrays -/

@[simp] theorem tabulate_getElem? {α : Type} (n : Nat) (f : Nat → α) (i : Nat) :
    (tabulate n f)[i]? = if i < n then some (f i) else none := by
  by_cases h : i < n <;> simp [tabulate, h]

theorem entry_overwrite (bytes l : List Byte) (i : Nat) :
    entry (overwrite bytes l) i = if i < l.length then entry l i else entry bytes i := by
  unfold entry overwrite
  simp only [List.getD_eq_getElem?_getD]
  split
  · next h => rw [List.getElem?_append_left h]
  · next h =>
    rw [List.getElem?_append_right (by omega), List.getElem?_drop]
    congr 2
    omega

@[simp] theorem entries_length (n : Nat) (bytes : List Byte) : (entries n bytes).length = n := by
  simp [entries]

theorem entries_getElem? (n : Nat) (bytes : List Byte) (i : Nat) :
    (entries n bytes)[i]? = if i < n then some (entry bytes i) else none := by
  by_cases h : i < n <;> simp [entries, h]

theorem setBit_getLsbD (r : BitVec Config.maxSide) (x x' : Nat) (b : Bool) :
    (setBit r x b).getLsbD x' = if x' = x ∧ x < Config.maxSide then b else r.getLsbD x' := by
  unfold setBit
  by_cases hx : x < Config.maxSide
  · by_cases he : x' = x
    · subst he
      cases b <;> simp [hx]
    · cases b
      · by_cases hlt : x' < Config.maxSide
        · simp [he, hlt]
        · simp [he, BitVec.getLsbD_of_ge _ _ (Nat.le_of_not_lt hlt)]
      · simp [he, Ne.symm he]
  · cases b
    · by_cases hlt : x' < Config.maxSide
      · have : x' ≠ x := by omega
        simp [hx, hlt, this]
      · simp [hx, BitVec.getLsbD_of_ge _ _ (Nat.le_of_not_lt hlt)]
    · have : ∀ i, (BitVec.twoPow Config.maxSide x).getLsbD i = false := by
        intro i
        rw [BitVec.getLsbD_twoPow]
        simp
        omega
      simp [hx, this]

theorem row_of_ge {g : Grid} {y : Nat} (h : Config.maxSide ≤ y) : row g y = 0 := by
  simp [row, h]

/-- `set_cell` writes one cell and no other; outside the array it writes none. -/
theorem cell_setCell (g : Grid) (x y x' y' : Nat) (b : Bool) :
    cell (setCell g x y b) x' y' =
      if x' = x ∧ y' = y ∧ x < Config.maxSide ∧ y < Config.maxSide then b else cell g x' y' := by
  unfold cell setCell
  by_cases hy : y' = y
  · subst hy
    by_cases hlt : y' < Config.maxSide
    · have : row (g.setIfInBounds y' (setBit (row g y') x b)) y' = setBit (row g y') x b := by
        simp [row, hlt]
      rw [this, setBit_getLsbD]
      simp [hlt]
    · have hge : Config.maxSide ≤ y' := Nat.le_of_not_lt hlt
      simp [row_of_ge hge, hlt]
  · have : row (g.setIfInBounds y (setBit (row g y) x b)) y' = row g y' := by
      unfold row
      rw [Vector.getElem?_setIfInBounds_ne (Ne.symm hy)]
    rw [this]
    simp [hy]

theorem mapRow_getLsbD (f : Nat → Bool → Bool) (side : Nat) (r : BitVec Config.maxSide) (x : Nat) :
    (mapRow f side r).getLsbD x =
      if x < side ∧ x < Config.maxSide then f x (r.getLsbD x) else r.getLsbD x := by
  unfold mapRow
  induction side with
  | zero => simp
  | succ n ih =>
    rw [List.range_succ, List.foldl_append]
    simp only [List.foldl_cons, List.foldl_nil, setBit_getLsbD]
    by_cases hx : x = n
    · subst hx
      by_cases hlt : x < Config.maxSide
      · have : ((List.range x).foldl (fun r x => setBit r x (f x (r.getLsbD x))) r).getLsbD x =
            r.getLsbD x := by rw [ih]; simp
        rw [this]
        simp [hlt]
      · rw [ih]
        simp [hlt]
    · rw [ih]
      simp only [hx, false_and, if_false]
      congr 1
      simp only [eq_iff_iff]
      constructor <;> rintro ⟨h₁, h₂⟩ <;> exact ⟨by omega, h₂⟩

/-- The square loop writes the cells of the square, each from its own old value, and no other. -/
theorem cell_mapSquare (f : Nat → Nat → Bool → Bool) (side : Nat) (g : Grid) (x y : Nat) :
    cell (mapSquare f side g) x y =
      if x < side ∧ y < side ∧ x < Config.maxSide ∧ y < Config.maxSide then f x y (cell g x y)
      else cell g x y := by
  unfold cell
  by_cases hlt : y < Config.maxSide
  · have : row (mapSquare f side g) y =
        if y < side then mapRow (fun x => f x y) side (row g y) else row g y := by
      show ((mapSquare f side g)[y]?).getD 0 = _
      rw [mapSquare, tabulate_getElem?, if_pos hlt, Option.getD_some]
    rw [this]
    by_cases hy : y < side
    · rw [if_pos hy, mapRow_getLsbD]
      simp [hy, hlt]
    · rw [if_neg hy]
      simp [hy]
  · have hge : Config.maxSide ≤ y := Nat.le_of_not_lt hlt
    simp [row_of_ge hge, hlt]

end Sys2Proof.Machine
end

