-- ==== Sys2Proof/Laws/Matrix.lean ====
section
/-! SUPPORT. What drawing, placing and masking do to a cell. -/

namespace Sys2Proof.Machine

/-- A draw at the cell (x, y). -/
def Draw.at (d : Draw) (x y : Nat) : Bool := d.x == x && d.y == y

theorem drawAll_append (ds es : List Draw) (m : Matrix) :
    drawAll (ds ++ es) m = drawAll es (drawAll ds m) := List.foldl_append

theorem drawAll_concat (ds : List Draw) (d : Draw) (m : Matrix) :
    drawAll (ds ++ [d]) m = setFn (drawAll ds m) d := by
  rw [drawAll_append]; rfl

/-- A cell is flagged after drawing iff it was before or a draw names it. -/
theorem drawAll_fn (ds : List Draw) (m : Matrix) {x y : Nat} (hx : x < Config.maxSide)
    (hy : y < Config.maxSide) :
    cell (drawAll ds m).fn x y = (cell m.fn x y || ds.any fun d => d.at x y) := by
  induction ds generalizing m with
  | nil => simp [drawAll]
  | cons d ds ih =>
    have : drawAll (d :: ds) m = drawAll ds (setFn m d) := rfl
    rw [this, ih, List.any_cons]
    simp only [setFn, cell_setCell, Draw.at]
    by_cases h : d.x = x ∧ d.y = y
    · obtain ⟨rfl, rfl⟩ := h
      simp [hx, hy]
    · have h' : ¬(x = d.x ∧ y = d.y ∧ d.x < Config.maxSide ∧ d.y < Config.maxSide) :=
        fun ⟨h₁, h₂, _⟩ => h ⟨h₁.symm, h₂.symm⟩
      have h'' : (d.x == x && d.y == y) = false := by simpa using h
      rw [if_neg h', h'', Bool.false_or]

/-- The last draw of a cell decides its colour: an earlier list counts only where the later one does
not draw. -/
theorem drawAll_mod_of_undrawn (ds : List Draw) (m : Matrix) {x y : Nat}
    (h : ∀ d ∈ ds, d.at x y = false) : cell (drawAll ds m).mod x y = cell m.mod x y := by
  induction ds generalizing m with
  | nil => rfl
  | cons d ds ih =>
    have : drawAll (d :: ds) m = drawAll ds (setFn m d) := rfl
    rw [this, ih _ fun e he => h e (List.mem_cons_of_mem _ he)]
    have hd := h d List.mem_cons_self
    simp only [setFn, cell_setCell]
    rw [if_neg]
    rintro ⟨rfl, rfl, _⟩
    simp [Draw.at] at hd

theorem drawAll_mod_last (ds es : List Draw) (d : Draw) (m : Matrix) (hx : d.x < Config.maxSide)
    (hy : d.y < Config.maxSide) (h : ∀ e ∈ es, e.at d.x d.y = false) :
    cell (drawAll (ds ++ d :: es) m).mod d.x d.y = d.dark := by
  have : ds ++ d :: es = (ds ++ [d]) ++ es := by simp
  rw [this, drawAll_append, drawAll_mod_of_undrawn es _ h, drawAll_concat]
  simp [setFn, cell_setCell, hx, hy]

/-- `apply_mask` cell by cell (spec/44_masker.md R282). -/
theorem cell_applyMask (k side : Nat) (m : Matrix) (x y : Nat) :
    cell (applyMask k side m).mod x y =
      if (x < side ∧ y < side ∧ x < Config.maxSide ∧ y < Config.maxSide) ∧
          cell m.fn x y = false ∧ maskAt k x y = true
      then !cell m.mod x y else cell m.mod x y := by
  simp only [applyMask, cell_mapSquare]
  by_cases hs : x < side ∧ y < side ∧ x < Config.maxSide ∧ y < Config.maxSide
  · rw [if_pos hs]
    cases cell m.fn x y <;> cases maskAt k x y <;> simp [hs]
  · rw [if_neg hs, if_neg fun h => hs h.1]

@[simp] theorem applyMask_fn (k side : Nat) (m : Matrix) : (applyMask k side m).fn = m.fn := rfl

theorem placeBit_fn (stream : List Byte) (n : Nat) (acc : Matrix × Nat) (p : Nat × Nat) :
    (placeBit stream n acc p).1.fn = acc.1.fn := by
  unfold placeBit
  split <;> rfl

theorem foldl_placeBit_fn (stream : List Byte) (n : Nat) (path : List (Nat × Nat))
    (acc : Matrix × Nat) : (path.foldl (placeBit stream n) acc).1.fn = acc.1.fn := by
  induction path generalizing acc with
  | nil => rfl
  | cons p path ih => rw [List.foldl_cons, ih, placeBit_fn]

/-- `place_data` writes no function flag (spec/43_matrix_builder.md R257). -/
@[simp] theorem placeData_fn (side raw : Nat) (stream : List Byte) (m : Matrix) :
    (placeData side raw stream m).1.fn = m.fn := foldl_placeBit_fn _ _ _ _

theorem foldl_placeBit_count (stream : List Byte) (n : Nat) (path : List (Nat × Nat))
    (acc : Matrix × Nat) (h : acc.2 ≤ n) :
    (path.foldl (placeBit stream n) acc).2 =
      min n (acc.2 + path.countP fun p => !cell acc.1.fn p.1 p.2) := by
  induction path generalizing acc with
  | nil => simp [h]
  | cons p path ih =>
    rw [List.foldl_cons, List.countP_cons]
    have hfn := placeBit_fn stream n acc p
    by_cases hf : cell acc.1.fn p.1 p.2 = false ∧ acc.2 < n
    · have h2 : (placeBit stream n acc p).2 = acc.2 + 1 := by rw [placeBit, if_pos hf]
      rw [ih _ (by omega), h2, hfn, hf.1]
      simp only [Bool.not_false, if_true]
      congr 1
      omega
    · have h2 : placeBit stream n acc p = acc := by rw [placeBit, if_neg hf]
      rw [h2, ih _ h]
      by_cases hc : cell acc.1.fn p.1 p.2 = false
      · have : acc.2 = n := by
          have := mt (And.intro hc) hf
          omega
        rw [hc]
        simp only [Bool.not_false, if_true]
        omega
      · simp [hc]

/-- `place_data` places as many bits as there are free cells on the path, up to the stream's
length. -/
theorem placeData_count (side raw : Nat) (stream : List Byte) (m : Matrix) :
    (placeData side raw stream m).2 =
      min (8 * raw) ((zigzag side).countP fun p => !cell m.fn p.1 p.2) := by
  unfold placeData
  rw [foldl_placeBit_count _ _ _ _ (Nat.zero_le _)]
  simp

end Sys2Proof.Machine
end

