-- ==== Sys2Proof/Laws/PerInstr.lean ====
section
/-! SUPPORT. Facts about every instruction, one lemma per constructor: the value of its command word
and of its operand field, in the places the formats give (spec/30_encoding.md R100 to R109). With
`extractLsb'_toNat` they turn a question about a field of the word into arithmetic. -/

namespace Sys2Proof.Laws

/-- Concatenation as arithmetic. -/
theorem append_toNat {m n : Nat} (x : BitVec m) (y : BitVec n) :
    (x ++ y).toNat = x.toNat * 2 ^ n + y.toNat := by
  rw [BitVec.toNat_append, ← Nat.shiftLeft_add_eq_or_of_lt y.isLt, Nat.shiftLeft_eq]

end Sys2Proof.Laws

namespace Sys2Proof.Laws.CommandWord

/-- The value of a command word: the opcode in bits [31:24], the operand field in bits [23:0], each
operand in its format's place and every reserved bit 0. -/
def Statement (i : Instr) : Prop :=
  (encode i).toNat = i.opcode.toNat * 2 ^ 24 + i.operandField.toNat ∧
  i.operandField.toNat = match i with
    | .nop ignored => ignored.toNat
    | .softReset ignored => ignored.toNat
    | .config fnc1 maskAuto maskId ecl version =>
        (((fnc1.toNat * 2 + maskAuto.toNat) * 2 ^ 3 + maskId.toNat) * 2 ^ 2 + ecl.code.toNat) * 2 ^ 6
          + version.toNat
    | .appendBits n => n.toNat
    | .saHeader parity count index => (parity.toNat * 2 ^ 5 + count.toNat) * 2 ^ 4 + index.toNat
    | .eci value => value.toNat
    | .segBegin count mode => count.toNat * 2 ^ 8 + mode.code.toNat
    | .put char => char.toNat
    | .finish => 0
    | .ecc => 0
    | .place => 0
    | .mask => 0
    | .run => 0

theorem nop (a : BitVec 24) : Statement (.nop a) := ⟨append_toNat _ _, rfl⟩

theorem softReset (a : BitVec 24) : Statement (.softReset a) := ⟨append_toNat _ _, rfl⟩

theorem config (f : BitVec 2) (a : Bool) (m : BitVec 3) (e : Level) (v : BitVec 6) :
    Statement (.config f a m e v) :=
  ⟨append_toNat _ _, (append_toNat _ _).trans (by
    rw [append_toNat (0#10 ++ f ++ BitVec.ofBool a ++ m) e.code,
      append_toNat (0#10 ++ f ++ BitVec.ofBool a) m, append_toNat (0#10 ++ f) (BitVec.ofBool a),
      append_toNat 0#10 f]
    simp)⟩

theorem appendBits (n : BitVec 6) : Statement (.appendBits n) :=
  ⟨append_toNat _ _, (append_toNat _ _).trans (by simp)⟩

theorem saHeader (p : BitVec 8) (c : BitVec 5) (i : BitVec 4) : Statement (.saHeader p c i) :=
  ⟨append_toNat _ _, (append_toNat _ _).trans (by
    rw [append_toNat (0#7 ++ p) c, append_toNat 0#7 p]
    simp)⟩

theorem eci (v : BitVec 20) : Statement (.eci v) :=
  ⟨append_toNat _ _, (append_toNat _ _).trans (by simp)⟩

theorem segBegin (c : BitVec 16) (m : Mode) : Statement (.segBegin c m) :=
  ⟨append_toNat _ _, (append_toNat _ _).trans (by
    rw [append_toNat c 0#6]
    simp
    omega)⟩

theorem put (c : BitVec 16) : Statement (.put c) :=
  ⟨append_toNat _ _, (append_toNat _ _).trans (by simp)⟩

theorem finish : Statement .finish := ⟨append_toNat _ _, rfl⟩

theorem ecc : Statement .ecc := ⟨append_toNat _ _, rfl⟩

theorem place : Statement .place := ⟨append_toNat _ _, rfl⟩

theorem mask : Statement .mask := ⟨append_toNat _ _, rfl⟩

theorem run : Statement .run := ⟨append_toNat _ _, rfl⟩

end Sys2Proof.Laws.CommandWord
end

