-- ==== Sys2Proof/Laws/Step.lean ====
section
/-! SUPPORT. What a command and a step can do, said once. -/

namespace Sys2Proof.Machine

/-- The body of a command that ERROR ignores; NOP and SOFT_RESET have none (spec/40_control.md
R130). -/
def commandBody : Instr → Option (State → Except ErrCode State)
  | .nop _ => none
  | .softReset _ => none
  | .config f a m e v => some (configBody f a m e v)
  | .appendBits n => some (appendBitsBody n)
  | .saHeader p c i => some (saHeaderBody p c i)
  | .eci v => some (eciBody v)
  | .segBegin c m => some (segBeginBody c m)
  | .put c => some (putBody c)
  | .finish => some finishBody
  | .ecc => some eccBody
  | .place => some placeBody
  | .mask => some maskBody
  | .run => some runBody

/-- Every other command is its body, run by `command` under its own opcode. -/
theorem exec_eq_command {i : Instr} {body : State → Except ErrCode State}
    (h : commandBody i = some body) (s : State) : exec i s = command i.opcode body s := by
  cases i <;> simp only [commandBody, Option.some.injEq, reduceCtorEq] at h <;> subst h <;> rfl

/-- Everything a command can do: it answers a next state, which is the state itself (NOP, or any
command but SOFT_RESET in ERROR), the reset state, the body's state, or error entry from the state
before. -/
theorem exec_cases (i : Instr) (s : State) :
    (exec i s = .next s ∧ ((∃ a, i = .nop a) ∨ s.phase = .error)) ∨
    ((∃ a, i = .softReset a) ∧ exec i s = .next (resetElements s)) ∨
    (∃ body t, commandBody i = some body ∧ s.phase ≠ .error ∧ body s = .ok t ∧ exec i s = .next t) ∨
    (∃ body c, commandBody i = some body ∧ s.phase ≠ .error ∧ body s = .error c ∧
      exec i s = .next (errorEntry c i.opcode s)) := by
  cases hb : commandBody i with
  | none =>
    cases i <;> simp only [commandBody, reduceCtorEq] at hb
    · exact .inl ⟨rfl, .inl ⟨_, rfl⟩⟩
    · exact .inr (.inl ⟨⟨_, rfl⟩, rfl⟩)
  | some body =>
    have he := exec_eq_command hb s
    rcases command_cases i.opcode body s with ⟨hp, h⟩ | ⟨hp, t, hs, h⟩ | ⟨hp, c, hs, h⟩
    · exact .inl ⟨he.trans h, .inr hp⟩
    · exact .inr (.inr (.inl ⟨body, t, rfl, hp, hs, he.trans h⟩))
    · exact .inr (.inr (.inr ⟨body, c, rfl, hp, hs, he.trans h⟩))

theorem exec_next (i : Instr) (s : State) : ∃ t, exec i s = .next t := by
  rcases exec_cases i s with ⟨h, _⟩ | ⟨_, h⟩ | ⟨_, t, _, _, _, h⟩ | ⟨_, _, _, _, _, h⟩ <;>
    exact ⟨_, h⟩

/-- Everything a write to `CMD` can do. -/
theorem commandStep_cases (w : Word) (s : State) :
    (∃ i, decode w = .ok i ∧ commandStep w s = exec i s) ∨
    (∃ e, decode w = .error e ∧ s.phase = .error ∧ commandStep w s = .next s) ∨
    (∃ e, decode w = .error e ∧ s.phase ≠ .error ∧
      commandStep w s = .next (errorEntry .invalidArgument (opcodeOf w) s)) := by
  unfold commandStep
  cases decode w with
  | ok i => exact .inl ⟨i, rfl, rfl⟩
  | error e =>
    by_cases h : s.phase = .error
    · exact .inr (.inl ⟨e, rfl, h, command_in_error h⟩)
    · exact .inr (.inr ⟨e, rfl, h, command_error h rfl⟩)

/-- Everything a step can do. -/
theorem step_cases (s : State) :
    (s.pending = [] ∧ step s = .next s) ∨
    (∃ off width rest, s.pending = .read off width :: rest ∧ off < Config.windowBytes ∧
      step s = .next { s with
        pending := rest
        readData := some (busRead off width { s with pending := rest }) }) ∨
    (∃ off width v rest, s.pending = .write off width v :: rest ∧ off < Config.windowBytes ∧
      step s = busWrite off width v { s with pending := rest }) ∨
    (∃ rest, s.pending = .rst :: rest ∧
      step s = .next (resetElements { s with pending := rest })) ∨
    (∃ e rest, s.pending = e :: rest ∧ step s = .fault .outsideWindow ∧
      ((∃ off width, e = .read off width ∧ Config.windowBytes ≤ off) ∨
        ∃ off width v, e = .write off width v ∧ Config.windowBytes ≤ off)) := by
  cases hp : s.pending with
  | nil => exact .inl ⟨rfl, by unfold step nextEvent; rw [hp]⟩
  | cons e rest =>
    have hs : step s = hostEvent e { s with pending := rest } := by
      unfold step nextEvent; rw [hp]
    cases e with
    | read off width =>
      by_cases h : off < Config.windowBytes
      · exact .inr (.inl ⟨off, width, rest, rfl, h, by rw [hs, hostEvent, if_pos h]⟩)
      · exact .inr (.inr (.inr (.inr ⟨_, rest, rfl, by rw [hs, hostEvent, if_neg h],
          .inl ⟨off, width, rfl, Nat.le_of_not_lt h⟩⟩)))
    | write off width v =>
      by_cases h : off < Config.windowBytes
      · exact .inr (.inr (.inl ⟨off, width, v, rest, rfl, h, by rw [hs, hostEvent, if_pos h]⟩))
      · exact .inr (.inr (.inr (.inr ⟨_, rest, rfl, by rw [hs, hostEvent, if_neg h],
          .inr ⟨off, width, v, rfl, Nat.le_of_not_lt h⟩⟩)))
    | rst => exact .inr (.inr (.inr (.inl ⟨rest, rfl, hs⟩)))

end Sys2Proof.Machine
end

