-- ==== Sys2Proof/Tests/Slice0.lean ====
section
/-! SUPPORT. Tests of the model against values of spec/ (mostly spec/95_test_vectors.md, named in each
comment), and for every obligation with hypotheses or cases a witness: states and operands that meet
them, at the ends of their ranges. -/

set_option synthInstance.maxSize 2000
-- One theorem after another: many kernel evaluations at once cost many thread stacks.
set_option Elab.async false

namespace Sys2Proof.Tests

open Sys2Proof Sys2Proof.Machine

/-! ### Small states -/

/-- The state a command answers. -/
def answer : Host.Outcome State Fault Refusal → State
  | .next s => s
  | .fault _ => State.reset
  | .refused _ => State.reset

theorem exec_answer (i : Instr) (s : State) : exec i s = .next (answer (exec i s)) := by
  obtain ⟨t, h⟩ := exec_next i s
  rw [h]; rfl

/-- The state after writing these words to `CMD`, from reset. -/
def sent (ws : List Word) : State := ws.foldl (fun s w => answer (commandStep w s)) State.reset

/-- FRAMING, nothing framed, fixed mask 2. -/
def framing (v : Nat) (e : Level) : State :=
  latchConfig .absent false 2 e (BitVec.ofNat 6 v) State.reset

/-- FRAMING with `n` zero bits framed. -/
def framed (v : Nat) (e : Level) (n : Nat) : State :=
  { framing v e with bitBuf := List.replicate n false, bitLen := BitVec.ofNat 15 n }

/-- An open segment with a held group. -/
def inSegment (mode : Mode) (remain n held : Nat) (s : State) : State :=
  { s with
    segOpen := true
    segMode := mode
    dataSeen := true
    remain := BitVec.ofNat 16 remain
    pendN := BitVec.ofNat 2 n
    pendVal := BitVec.ofNat 10 held }

/-- Another phase. -/
def at_ (p : Phase) (s : State) : State := { s with phase := p }

/-- A host event ahead of the others. -/
def withEvent (e : HostEvent) (s : State) : State := { s with pending := e :: s.pending }

/-- Bits written as digits. -/
def bin (digits : List Nat) : List Bool := digits.map (· == 1)

/-- V-NUM of spec/95_test_vectors.md section 2.3, before RUN. -/
def numFramed : State := sent ([0x10000201, 0x23000800] ++ [0x24000030, 0x24000031, 0x24000032,
  0x24000033, 0x24000034, 0x24000035, 0x24000036, 0x24000037])

/-- V-NUM in INTERLEAVED. -/
def numInterleaved : State :=
  { framed 1 .m 128 with
    phase := .interleaved
    stream := [0x10, 0x20, 0x0C, 0x56, 0x61, 0x80, 0xEC, 0x11, 0xEC, 0x11, 0xEC, 0x11, 0xEC, 0x11, 0xEC,
      0x11] ++ [0xA5, 0x24, 0xD4, 0xC1, 0xED, 0x36, 0xC7, 0x87, 0x2C, 0x55] }

/-- V-NUM in PLACED. -/
def numPlaced : State := answer (exec .place numInterleaved)

/-- V-HW in PLACED. -/
def hwPlaced : State :=
  answer (exec .place { latchConfig .absent true 0 .q 1 State.reset with
    phase := .interleaved
    stream := [0x20, 0x5B, 0x0B, 0x78, 0xD1, 0x72, 0xDC, 0x4D, 0x43, 0x40, 0xEC, 0x11, 0xEC] ++
      [0xA8, 0x48, 0x16, 0x52, 0xD9, 0x36, 0x9C, 0x00, 0x2E, 0x0F, 0xB4, 0x7A, 0x10] })

theorem step_command {i : Instr} (h : decode (encode i) = .ok i) (s : State) :
    step (withEvent (cmd i) s) = exec i s := by
  show commandStep (encode i) s = exec i s
  unfold commandStep
  rw [h]

/-! ### WellFormed: an ill-formed command for each check -/

theorem test_wf_version_0 : (Instr.config 0 false 0 .m 0).wellFormed = false := by decide
theorem test_wf_version_41 : (Instr.config 0 false 0 .m 41).wellFormed = false := by decide
theorem test_wf_version_40 : (Instr.config 2 true 7 .h 40).wellFormed = true := by decide
theorem test_wf_fnc1_3 : (Instr.config 3 false 0 .m 1).wellFormed = false := by decide
theorem test_wf_n_32 : (Instr.appendBits 32).wellFormed = false := by decide
theorem test_wf_n_31 : (Instr.appendBits 31).wellFormed = true := by decide
theorem test_wf_count_0 : (Instr.saHeader 0 0 0).wellFormed = false := by decide
theorem test_wf_count_17 : (Instr.saHeader 0 17 0).wellFormed = false := by decide
theorem test_wf_index_not_below_count : (Instr.saHeader 0 4 4).wellFormed = false := by decide
theorem test_wf_index_15_of_16 : (Instr.saHeader 0xFF 16 15).wellFormed = true := by decide
theorem test_wf_eci_1000000 : (Instr.eci 1000000).wellFormed = false := by decide
theorem test_wf_eci_999999 : (Instr.eci 999999).wellFormed = true := by decide

/-! ### Decoding: words laid out field by field from R102 to R109 -/

theorem test_decode_nop :
    decode (0b00000000#8 ++ 0x123456#24) = .ok (.nop 0x123456) := by decide
theorem test_decode_soft_reset :
    decode (0b00000001#8 ++ 0xABCDEF#24) = .ok (.softReset 0xABCDEF) := by decide
/-- FC: reserved, FNC1, MASK_AUTO, MASK_ID, ECL, VERSION. -/
theorem test_decode_config :
    decode (0b00010000#8 ++ 0b0000000000#10 ++ 0b10#2 ++ 0b1#1 ++ 0b110#3 ++ 0b01#2 ++ 0b101000#6) =
      .ok (.config 2 true 6 .l 40) := by decide
theorem test_decode_config_levels :
    [0b00#2, 0b01#2, 0b10#2, 0b11#2].map (fun e =>
        decode (0b00010000#8 ++ 0b0000000000#10 ++ 0b00#2 ++ 0b0#1 ++ 0b010#3 ++ e ++ 0b000001#6)) =
      [Level.m, .l, .h, .q].map (fun e => .ok (.config 0 false 2 e 1)) := by decide
/-- FA: reserved, N. -/
theorem test_decode_append_bits :
    decode (0b00100000#8 ++ 0b000000000000000000#18 ++ 0b100001#6) = .ok (.appendBits 33) := by decide
/-- FS: reserved, PARITY, COUNT, INDEX. -/
theorem test_decode_sa_header :
    decode (0b00100001#8 ++ 0b0000000#7 ++ 0b10011011#8 ++ 0b10000#5 ++ 0b1110#4) =
      .ok (.saHeader 0x9B 16 14) := by decide
/-- FE: reserved, VALUE. -/
theorem test_decode_eci :
    decode (0b00100010#8 ++ 0b0000#4 ++ 0b11110100001000111111#20) = .ok (.eci 999999) := by decide
/-- FB: COUNT, reserved, MODE. -/
theorem test_decode_seg_begin :
    decode (0b00100011#8 ++ 0b1000000000001011#16 ++ 0b000000#6 ++ 0b01#2) =
      .ok (.segBegin 0x800B .alphanumeric) := by decide
theorem test_decode_seg_begin_modes :
    [0b00#2, 0b10#2, 0b11#2].map (fun m =>
        decode (0b00100011#8 ++ 0b0000000000000001#16 ++ 0b000000#6 ++ m)) =
      [Mode.numeric, .byte, .kanji].map (fun m => .ok (.segBegin 1 m)) := by decide
/-- FP: reserved, CHAR. -/
theorem test_decode_put :
    decode (0b00100100#8 ++ 0b00000000#8 ++ 0b1110101110111111#16) = .ok (.put 0xEBBF) := by decide
theorem test_decode_finish : decode (0b00110000#8 ++ 0#24) = .ok .finish := by decide
theorem test_decode_ecc : decode (0b00110001#8 ++ 0#24) = .ok .ecc := by decide
theorem test_decode_place : decode (0b00110010#8 ++ 0#24) = .ok .place := by decide
theorem test_decode_mask : decode (0b00110011#8 ++ 0#24) = .ok .mask := by decide
theorem test_decode_run : decode (0b00111111#8 ++ 0#24) = .ok .run := by decide

/-- The lowest and the highest reserved bit of each format (R102, R104 to R109). -/
theorem test_decode_reserved_bits :
    [0x10004000#32, 0x10800000#32, 0x20000040#32, 0x20800000#32, 0x21020000#32, 0x21800000#32,
        0x22100000#32, 0x22800000#32, 0x23000004#32, 0x23000080#32, 0x24010000#32, 0x24800000#32].map
      decode = List.replicate 12 (.error .reservedBits) := by decide
theorem test_decode_reserved_bits_f0 :
    [0x30000001#32, 0x30800000#32, 0x31000001#32, 0x31800000#32, 0x32000001#32, 0x32800000#32,
        0x33000001#32, 0x33800000#32, 0x3F000001#32, 0x3F800000#32].map
      decode = List.replicate 10 (.error .reservedBits) := by decide
theorem test_decode_unassigned :
    ∀ op ∈ [0x02#8, 0x0F#8, 0x11#8, 0x1F#8, 0x25#8, 0x2F#8, 0x34#8, 0x3E#8, 0x40#8, 0xFF#8],
      decode (op ++ 0x000000#24) = .error .unassignedOpcode := by decide +kernel
theorem test_decode_table_word :
    decodeTableWord 32 0x21003640 = some (.saHeader 0x1B 4 0) ∧
    decodeTableWord 32 0x30000001 = none := by decide +kernel

/-! ### Commands, one step each -/

/-- V-CTRL 9. -/
theorem test_nop_keeps_framing :
    statusWord (answer (commandStep 0x00123456 (sent [0x10000001]))) = 0x1 := by decide +kernel
/-- V-CTRL 12. -/
theorem test_soft_reset_leaves_error :
    let t := answer (commandStep 0x01ABCDEF (sent [0x10000001, 0x02000000]))
    statusWord t = 0 ∧ cfgWord t = 0 := by decide +kernel
/-- V-CTRL 2. -/
theorem test_config_geometry :
    let t := answer (commandStep 0x10000201 State.reset)
    statusWord t = 0x1 ∧ cfgWord t = 0x201 ∧ geom0Word t = 0x000A0115 ∧ geom1Word t = 0x0010001A ∧
      geom2Word t = 0xD0 := by decide +kernel
/-- V-BOUND: version 40, level L, automatic mask. -/
theorem test_config_version_40 :
    let t := answer (exec (.config 0 true 0 .l 40) State.reset)
    geom0Word t = 0x021E19B1 ∧ geom1Word t = 0x0B8C0E7A ∧ geom2Word t = 0x73D0 := by decide +kernel
/-- V-APP 1. -/
theorem test_append_bits_5_in_3 :
    (answer (exec (.appendBits 3) { framing 1 .m with arg := 5 })).bitBuf = bin [1, 0, 1] := by decide
/-- V-APP 8: a full buffer. -/
theorem test_append_bits_past_capacity :
    statusWord (answer (exec (.appendBits 1) (framed 1 .h 72))) = 0x2037 := by decide +kernel
/-- V-SAH 2. -/
theorem test_sa_header_bits :
    (answer (commandStep 0x2101FF0F (framing 1 .m))).bitBuf =
      bin ([0, 0, 1, 1] ++ [1, 1, 1, 1] ++ [1, 1, 1, 1] ++ [1, 1, 1, 1, 1, 1, 1, 1]) := by decide
/-- V-SAH 7. -/
theorem test_sa_header_twice :
    statusWord (answer (commandStep 0x21003640 (sent [0x10000001, 0x21003640]))) = 0x22117 := by
  decide +kernel
/-- V-ECI, 16383 and 16384. -/
theorem test_eci_designators :
    (answer (commandStep 0x22003FFF (framing 1 .m))).bitBuf =
      bin ([0, 1, 1, 1] ++ [1, 0] ++ [1, 1, 1, 1, 1, 1, 1, 1, 1, 1, 1, 1, 1, 1]) ∧
    (answer (commandStep 0x22004000 (framing 1 .m))).bitBuf =
      bin ([0, 1, 1, 1] ++ [1, 1, 0] ++ [0, 0, 0, 0, 0, 0, 1] ++
        [0, 0, 0, 0, 0, 0, 0, 0, 0, 0, 0, 0, 0, 0]) := by decide
/-- V-ECI, 1000000. -/
theorem test_eci_out_of_range :
    statusWord (answer (commandStep 0x220F4240 (framing 1 .m))) = 0x2217 := by decide +kernel
/-- V-SEG 14. -/
theorem test_seg_begin_1023 :
    let t := answer (commandStep 0x2303FF00 (framing 1 .m))
    t.bitBuf = bin ([0, 0, 0, 1] ++ [1, 1, 1, 1, 1, 1, 1, 1, 1, 1]) ∧ statusWord t = 0x40009 ∧
      segWord t = 0x3FF0000 := by decide +kernel
/-- V-FNC1: the indicator between the mode and the count. -/
theorem test_seg_begin_fnc1 :
    let t := answer (commandStep 0x23000102 (sent [0x10002001]))
    t.bitBuf = bin ([0, 1, 0, 0] ++ [1, 0, 0, 1] ++ [0, 0, 0, 0, 0, 0, 0, 1]) ∧
      t.fnc1Done = true := by decide +kernel
/-- V-NUM's held groups: after '1' and, before the last digit, '6'. -/
theorem test_put_numeric_holds :
    let t := answer (commandStep 0x24000031 (sent [0x10000201, 0x23000800, 0x24000030]))
    bitLenWord t = 14 ∧ segWord t = 0x00060018 := by decide +kernel
/-- V-SEG 6, 11, 8: a pair, a Kanji character, a character outside the class. -/
theorem test_put_alnum_kanji_and_class :
    (answer (commandStep 0x24000042 (inSegment .alphanumeric 1 1 10 (framing 1 .m)))).bitBuf =
      bin [0, 0, 1, 1, 1, 0, 0, 1, 1, 0, 1] ∧
    (answer (commandStep 0x2400EBBF (inSegment .kanji 1 0 0 (framing 1 .m)))).bitBuf =
      bin [1, 1, 1, 1, 1, 1, 1, 1, 1, 1, 1, 1, 1] ∧
    statusWord (answer (commandStep 0x24000061 (inSegment .alphanumeric 1 0 0 (framing 1 .m)))) =
      0x4242F := by decide +kernel
/-- V-FIN 1. -/
theorem test_finish_empty :
    (answer (exec .finish (framing 1 .m))).dataCw =
      [0x00, 0xEC, 0x11, 0xEC, 0x11, 0xEC, 0x11, 0xEC, 0x11, 0xEC, 0x11, 0xEC, 0x11, 0xEC, 0x11,
        0xEC] := by decide +kernel
/-- V-FIN 2: two terminator bits. -/
theorem test_finish_two_terminator_bits :
    (answer (exec .finish { framing 1 .h with
        bitBuf := List.replicate 62 false ++ List.replicate 8 true, bitLen := 70 })).dataCw =
      [0x00, 0x00, 0x00, 0x00, 0x00, 0x00, 0x00, 0x03, 0xFC] := by decide +kernel
/-- V-ILV: 5-Q with codeword i holding i. -/
theorem test_ecc_interleaves :
    let t := answer (exec .ecc { framing 5 .q with
      phase := .padded, dataCw := (List.range 62).map (BitVec.ofNat 8) })
    t.stream.take 16 = [0, 15, 30, 46, 1, 16, 31, 47, 2, 17, 32, 48, 3, 18, 33, 49] ∧
    (t.stream.drop 56).take 14 =
      [14, 29, 44, 60, 45, 61, 0x82, 0x55, 0x12, 0x44, 0x20, 0xD8, 0x02, 0xE0] ∧
    t.stream.length = 134 := by decide +kernel
set_option maxRecDepth 100000 in
/-- V-MAT-5: where the first stream bits 0001 of V-NUM go, and the tail of the path. -/
theorem test_place_path :
    (zigzag 21).take 4 = [(20, 20), (19, 20), (20, 19), (19, 19)] ∧
    [(20, 20), (19, 20), (20, 19), (19, 19)].map (fun p => cell numPlaced.matrix.mod p.1 p.2) =
      bin [0, 0, 0, 1] ∧
    numPlaced.phase = .placed := by decide +kernel
set_option maxRecDepth 100000 in
/-- V-HW, R299: the eight penalties, the choice and the dark count. -/
theorem test_mask_auto :
    let t := answer (exec .mask hwPlaced)
    t.pen.toList = [1067, 1103, 1203, 1022, 1298, 1218, 1037, 1111] ∧ resultWord t = 0xFF0B ∧
      t.dark = 216 ∧ t.phase = .done := by decide +kernel
set_option maxRecDepth 100000 in
/-- V-NUM, its end: the words and row 8 (the level's and the mask's format bits). -/
theorem test_run_numeric :
    let t := answer (exec .run numFramed)
    statusWord t = 0x40005 ∧ resultWord t = 0x0A ∧ t.dark = 216 ∧
      rowCells 21 t.matrix.mod 8 =
        bin ([1, 0, 1, 1, 1, 1, 1, 0, 0, 1, 0, 0] ++ [1, 0, 1, 1, 1, 1, 1, 0, 0]) := by
  decide +kernel
set_option maxRecDepth 100000 in
/-- V-ERR: RUN with a segment open. -/
theorem test_run_segment_open :
    statusWord (answer (exec .run (inSegment .alphanumeric 2 1 10 (framed 1 .h 72)))) = 0x43F1F := by
  decide +kernel

/-! ### Functions of the engines -/

/-- V-GF. -/
theorem test_gf_products :
    gfMul 0x02 0x80 = 0x1D ∧ gfMul 0xFF 0xFF = 0xE2 ∧ gfMul 0x53 0xCA = 0x8F ∧ gfMul 0x03 0x07 = 0x09 ∧
    gfMul 0x57 0x83 = 0x31 ∧ gfMul 0x80 0x80 = 0x13 ∧ gfMul 0x00 0xAB = 0x00 := by decide +kernel
/-- R209. -/
theorem test_rs_divisors :
    rsDivisor 1 = [0x01] ∧ rsDivisor 2 = [0x03, 0x02] ∧ rsDivisor 3 = [0x07, 0x0E, 0x08] ∧
    rsDivisor 7 = [0x7F, 0x7A, 0x9A, 0xA4, 0x0B, 0x44, 0x75] ∧
    rsDivisor 13 = [0x89, 0x49, 0xE3, 0x11, 0xB1, 0x11, 0x34, 0x0D, 0x2E, 0x2B, 0x53, 0x84, 0x78] := by
  decide +kernel
/-- R209, the block of QRIO's scenario 1; V-RS. -/
theorem test_rs_remainders :
    rsRemainder [0x10, 0x20, 0x0C, 0x56, 0x61, 0x80, 0xEC, 0x11, 0xEC, 0x11, 0xEC, 0x11, 0xEC, 0x11, 0xEC,
        0x11] (rsDivisor 10) = [0xA5, 0x24, 0xD4, 0xC1, 0xED, 0x36, 0xC7, 0x87, 0x2C, 0x55] ∧
    rsRemainder [0x00, 0x00, 0x00, 0x80] (rsDivisor 7) =
      [0x71, 0xCB, 0x92, 0xE4, 0xE9, 0xBD, 0x18] := by decide +kernel
/-- V-TAB, R230. -/
theorem test_geometry_tables :
    [1, 5, 10, 27, 40].map rawModules = [208, 1079, 2768, 14628, 29648] ∧
    dataCodewords .l 1 = 19 ∧ dataCodewords .h 1 = 9 ∧ dataCodewords .q 5 = 62 ∧
    dataCodewords .m 10 = 216 ∧ dataCodewords .l 27 = 1468 ∧ dataCodewords .l 40 = 2956 ∧
    dataCodewords .h 40 = 1276 := by decide +kernel
/-- V-MASK-1. -/
theorem test_mask_predicates :
    [(0, 0), (1, 0), (0, 1), (3, 2), (5, 7), (2, 3), (4, 6)].map
        (fun p => (List.range 8).map fun k => maskAt k p.1 p.2) =
      [[1, 1, 1, 1, 1, 1, 1, 1], [0, 1, 0, 0, 1, 1, 1, 0], [0, 0, 1, 0, 1, 1, 1, 0],
       [0, 1, 1, 0, 1, 1, 1, 0], [1, 0, 0, 1, 1, 0, 0, 1], [0, 0, 0, 0, 0, 1, 1, 0],
       [1, 1, 0, 0, 1, 1, 1, 1]].map bin := by decide +kernel
/-- V-MASK-2, all light: 798 + 1200 + 0 + 90. -/
theorem test_penalty_all_light :
    runPenalty 21 Matrix.blank.mod = 798 ∧ blockPenalty 21 Matrix.blank.mod = 1200 ∧
    (balanceCeiling 21 0 - 1) * 10 = 90 := by decide +kernel
/-- V-MASK-2, the finder-like row: the shares of its line (P1 of the light margin, P3 80). -/
theorem test_penalty_finder_like_row :
    let l := scanLine 21 (bin ([1, 0, 1, 1, 1, 0, 1] ++ [0, 0, 0, 0, 0, 0, 0, 0, 0, 0, 0, 0, 0, 0]))
    l.p3 + terminateAndCount 21 l.dark l.len l.hist * 40 = 80 := by decide +kernel
set_option maxRecDepth 100000 in
/-- V-MAT-6: the readback window in V-NUM's DONE state. -/
theorem test_mod_data :
    let t := answer (exec .mask numPlaced)
    [(0, 0), (8, 13), (6, 8), (8, 8), (7, 7), (20, 20), (10, 10), (21, 0)].map
        (fun p => moduleRead t p.1 p.2) = [3, 3, 3, 2, 2, 0, 0, 0] := by decide +kernel

/-! ### Witnesses: for each obligation with hypotheses or cases, states and operands that meet them -/

open Sys2Proof.Claims

theorem witness_EncodeOfDecodeIsTheWord :
    decode 0x21003640 = .ok (.saHeader 0x1B 4 0) ∧ decode 0x01ABCDEF = .ok (.softReset 0xABCDEF) := by
  decide
/-- A command, its reserved bits set, an unassigned opcode, ERROR; the ends of the unassigned ranges. -/
theorem witness_EveryWordIsACommandOrFails :
    (reservedMask (opcodeOf 0x10003FFF).toNat = some 0xFFC000 ∧ (0x10003FFF &&& 0xFFC000) = 0) ∧
    (reservedMask (opcodeOf 0x10004000).toNat = some 0xFFC000 ∧ (0x10004000 &&& 0xFFC000) ≠ 0) ∧
    State.reset.phase ≠ .error ∧
    ((at_ .error State.reset).phase = .error ∧ opcodeOf 0x02000000 ≠ 0x01) ∧
    [0x02, 0x0F, 0x11, 0x1F, 0x25, 0x2F, 0x34, 0x3E, 0x40, 0xFF].map reservedMask =
      List.replicate 10 none ∧
    ([0x01, 0x10, 0x20, 0x24, 0x30, 0x33, 0x3F].all fun op => (reservedMask op).isSome) = true := by
  decide
theorem witness_StepRunsTheDecodedCommand :
    ((withEvent (wr .cmd 0x10000201) State.reset).pending = .write 0x004 4 0x10000201 :: [] ∧
      decode 0x10000201 = .ok (.config 0 false 2 .m 1)) ∧
    (decode 0x02000000 = .error .unassignedOpcode ∧ State.reset.phase ≠ .error) ∧
    (decode 0x30000001 = .error .reservedBits ∧ (at_ .error State.reset).phase = .error) := by decide
theorem witness_UnadmittedAccessesAreIgnored :
    (4095 < 4096 ∧ (4 ≠ 4 ∨ 4095 % 4 ≠ 0)) ∧ (0 < 4096 ∧ (2 ≠ 4 ∨ 0 % 4 ≠ 0)) ∧
    (withEvent (.write 4095 4 1) State.reset).pending = .write 4095 4 1 :: [] ∧
    (withEvent (.read 0 2) State.reset).pending = .read 0 2 :: [] := by decide
theorem witness_RegisterReadsShowTheirFields :
    [0x030, 0x03C, 0x070, 0xFFC].all (fun off =>
      (0x030 ≤ off ∧ off ≤ 0x03C) ∨ (0x070 ≤ off ∧ off ≤ 0xFFC)) = true ∧
    [0x02C, 0x040, 0x06C].all (fun off =>
      ¬((0x030 ≤ off ∧ off ≤ 0x03C) ∨ (0x070 ≤ off ∧ off ≤ 0xFFC))) = true := by decide
theorem witness_ReadsHaveNoSideEffect :
    4095 < 4096 ∧ (withEvent (.read 4095 4) State.reset).pending = .read 4095 4 :: [] := by decide
/-- Open and closed readback windows, at the last module and codeword and one past them. -/
theorem witness_ReadbackWindowsShowSymbolAndCodewords :
    (let s := { at_ .done (framing 1 .m) with modX := 20, modY := 20 };
      s.phase = .done ∧ s.modX.toNat < s.size.toNat ∧ s.modY.toNat < s.size.toNat) ∧
    (let s := { at_ .done (framing 1 .m) with modX := 21 }; ¬s.modX.toNat < s.size.toNat) ∧
    (let s := { at_ .padded (framing 1 .m) with cwIdx := 15 };
      s.phase = .padded ∧ s.cwIdx.toNat < s.data.toNat) ∧
    (let s := { at_ .interleaved (framing 1 .m) with cwIdx := 25 };
      (s.phase = .interleaved ∨ s.phase = .placed ∨ s.phase = .done) ∧ s.cwIdx.toNat < s.raw.toNat) ∧
    (let s := { at_ .placed (framing 1 .m) with cwIdx := 26 }; ¬s.cwIdx.toNat < s.raw.toNat) := by
  decide
theorem witness_HostWritesUpdateTheirRegister :
    (withEvent (wr .arg 0xFFFFFFFF) State.reset).pending = .write 0x008 4 0xFFFFFFFF :: [] ∧
    (withEvent (wr .modAddr 0xFFFFFFFF) State.reset).pending = .write 0x060 4 0xFFFFFFFF :: [] ∧
    (withEvent (wr .cwAddr 0xFFFFFFFF) State.reset).pending = .write 0x068 4 0xFFFFFFFF :: [] := by
  decide
theorem witness_OtherWritesAreIgnored :
    [0x000, 0x00C, 0xFFC].all (fun off =>
      off < 4096 ∧ off ≠ 0x004 ∧ off ≠ 0x008 ∧ off ≠ 0x060 ∧ off ≠ 0x068) = true ∧
    (withEvent (.write 0x00C 4 0xFFFFFFFF) State.reset).pending = .write 0x00C 4 0xFFFFFFFF :: [] := by
  decide
theorem witness_EventsInTheWindowNeverStopTheCore :
    (withEvent (.write 4095 4 0) State.reset).pending = .write 4095 4 0 :: [] ∧ 4095 < 4096 ∧
    State.reset.pending = [] := by decide
theorem witness_NoEventWaitsAndOutsideAccessStops :
    State.reset.pending = [] ∧ 4096 ≤ 4096 ∧
    (withEvent (.read 4096 4) State.reset).pending = .read 4096 4 :: [] ∧
    (withEvent (.write 4096 4 0) State.reset).pending = .write 4096 4 0 :: [] := by decide
theorem witness_AssemblerLinesDoWhatTheyStandFor :
    (let s := { framing 1 .m with pending := pseudoAppend 5 3 ++ [HostEvent.rst] };
      s.pending = pseudoAppend 5 3 ++ [HostEvent.rst]) ∧
    (let s := { at_ .done (framing 1 .m) with pending := pseudoReadModule 20 20 ++ [] };
      s.pending = pseudoReadModule 20 20 ++ [] ∧ s.phase = .done ∧ (20#8).toNat < s.size.toNat) ∧
    (let s := { framing 1 .m with pending := pseudoReadCw 0xFFF ++ [] };
      s.pending = pseudoReadCw 0xFFF ++ []) ∧
    (let s := { framing 1 .m with pending := pseudoSegment .byte [0x41, 0x42] ++ [HostEvent.rst] };
      s.pending = pseudoSegment .byte [0x41, 0x42] ++ [HostEvent.rst]) ∧
    (List.replicate 65535 (0x41 : BitVec 16)).length < 2 ^ 16 :=
  ⟨by decide, by decide, by decide, by decide, by rw [List.length_replicate]; decide⟩
theorem witness_ResetGivesTheSpecifiedValues :
    (withEvent .rst (framed 40 .l 5)).pending = .rst :: [] ∧ AtReset State.reset ∧
    0x004 ≤ 0x004 ∧ 4095 < 4096 := by decide +kernel
/-- The legal case at both ends of VERSION, and each cause of failure. -/
theorem witness_ConfigLatchesConfigurationAndGeometry :
    State.reset.phase = .idle ∧
    [1#6, 40#6].all (fun v => 1 ≤ v.toNat ∧ v.toNat ≤ 40) = true ∧
    [0#6, 41#6].all (fun v => ¬(1 ≤ v.toNat ∧ v.toNat ≤ 40)) = true ∧
    (framing 1 .m).phase ≠ .error ∧ (framing 1 .m).phase ≠ .idle := by decide
theorem witness_ConfigurationIsFixedUntilReset :
    let s := withEvent (cmd .finish) (framing 40 .h)
    s.phase ≠ .idle ∧ ∃ t, step s = .next t :=
  ⟨by decide, by rw [step_command (by decide)]; exact exec_next _ _⟩
theorem witness_CommandsLeaveHostWrittenRegisters :
    ∃ t, exec .run (framing 1 .m) = .next t ∧ ∀ a, Instr.run ≠ .softReset a :=
  ⟨_, exec_answer _ _, fun _ => nofun⟩
theorem witness_FailingCommandLeavesOnlyTheErrorFields :
    ∃ t, exec (.appendBits 1) (framed 1 .h 72) = .next t ∧ (framed 1 .h 72).phase ≠ .error ∧
      t.phase = .error := ⟨_, exec_answer _ _, by decide +kernel, by decide +kernel⟩
theorem witness_ErrorIgnoresCommands :
    let s := at_ .error (framing 1 .m)
    s.phase = .error ∧ opcodeOf 0x00000000 ≠ 0x01 ∧ opcodeOf 0xFF000000 ≠ 0x01 ∧
    (withEvent (.write 0x004 4 0xFF000000) s).pending = .write 0x004 4 0xFF000000 :: [] ∧
    (withEvent (.write 0x008 4 1) s).pending = .write 0x008 4 1 :: [] ∧
    (withEvent (.write 0x060 4 1) s).pending = .write 0x060 4 1 :: [] ∧
    (withEvent (.write 0x068 4 1) s).pending = .write 0x068 4 1 :: [] := by decide
theorem witness_PhaseMovesOnlyAsListed :
    (∃ t, exec .finish (framing 1 .m) = .next t) ∧
    ((framing 1 .m).phase ≠ .error ∧ legalPhase .mask = some .placed ∧
      Phase.placed ≠ (framing 1 .m).phase) ∧
    (decode 0xFF000000 = .error .unassignedOpcode ∧
      ∃ t, commandStep 0xFF000000 State.reset = .next t) ∧
    (∃ t, step (withEvent .rst (framing 1 .m)) = .next t) ∧
    (∃ t, step (withEvent (.read 0 4) (framing 1 .m)) = .next t) ∧
    (0x008 ≠ 0x004 ∧ ∃ t, step (withEvent (.write 0x008 4 1) (framing 1 .m)) = .next t) :=
  ⟨⟨_, exec_answer _ _⟩, by decide, ⟨by decide, ⟨_, rfl⟩⟩, ⟨_, rfl⟩, ⟨_, rfl⟩, by decide, ⟨_, rfl⟩⟩
theorem witness_IllegalOperandsFail :
    (Instr.eci 1000000).wellFormed = false ∧ (framing 1 .m).phase ≠ .error := by decide
theorem witness_CommandsRaiseOnlyTheirListedErrors :
    ∃ t, BufferOk (framed 1 .h 72) ∧ exec (.segBegin 1 .byte) (framed 1 .h 72) = .next t ∧
      (framed 1 .h 72).phase ≠ .error ∧ t.phase = .error :=
  ⟨_, by decide +kernel, exec_answer _ _, by decide +kernel, by decide +kernel⟩
/-- The three cases, at their ends: N = 31 and 32, a value one bit too long, the last free bit and one
bit too many. -/
theorem witness_AppendBitsAppendsTheOperand :
    (framing 1 .m).phase ≠ .error ∧ (32#6).toNat > 31 ∧ ¬(31#6).toNat > 31 ∧
    8 / 2 ^ 3 ≠ 0 ∧ 7 / 2 ^ 3 = 0 ∧ 0x7FFFFFFF / 2 ^ 31 = 0 ∧
    (framed 1 .h 71).bitLen.toNat + 2 > 8 * (framed 1 .h 71).data.toNat ∧
    ¬(framed 1 .h 71).bitLen.toNat + 1 > 8 * (framed 1 .h 71).data.toNat := by decide +kernel
theorem witness_BitBufferOnlyGrowsUntilReset :
    (∃ t, step (withEvent .rst (framed 1 .h 72)) = .next t) ∧
    (∃ t, step (withEvent (.read 0 4) (framed 1 .h 72)) = .next t) ∧
    (withEvent (.write 0x004 4 (encode (.softReset 7))) State.reset).pending =
      .write 0x004 4 (encode (.softReset 7)) :: [] ∧
    ConfigOk (framed 1 .h 72) ∧ BufferOk (framed 1 .h 72) :=
  ⟨⟨_, rfl⟩, ⟨_, rfl⟩, by decide, by decide +kernel, by decide +kernel⟩
/-- COUNT 1 and 16, INDEX 0 and 15; each cause of failure; 52 and 53 bits of 72. -/
theorem witness_SaHeaderEmitsTwentyBits :
    (framing 1 .h).phase = .framing ∧ (framing 1 .h).dataSeen = false ∧ (framing 1 .h).saDone = false ∧
    (16#5).toNat ≤ 16 ∧ (15#4).toNat < (16#5).toNat ∧ (0#4).toNat < (1#5).toNat ∧
    (0#5).toNat = 0 ∧ (17#5).toNat > 16 ∧ (4#4).toNat ≥ (4#5).toNat ∧
    ¬(framed 1 .h 52).bitLen.toNat + 20 > 8 * (framed 1 .h 52).data.toNat ∧
    (framed 1 .h 53).bitLen.toNat + 20 > 8 * (framed 1 .h 53).data.toNat := by decide +kernel
/-- The three designator lengths at their ends; a buffer with no room. -/
theorem witness_EciEmitsIndicatorAndDesignator :
    (framing 1 .h).phase = .framing ∧ (1000000#20).toNat > 999999 ∧
    [0, 127, 128, 16383, 16384, 999999].map (fun v => (designatorBits v).length) =
      [8, 8, 16, 16, 24, 24] ∧
    (framed 1 .h 61).bitLen.toNat + (4 + (designatorBits 127).length) > 8 * (framed 1 .h 61).data.toNat ∧
    ¬(framed 1 .h 60).bitLen.toNat + (4 + (designatorBits 127).length) >
      8 * (framed 1 .h 60).data.toNat := by decide +kernel
/-- COUNT 1023 and 1024 of a 10-bit width; with and without the FNC1 indicator; room and no room. -/
theorem witness_SegBeginEmitsTheHeader :
    (framing 1 .h).phase = .framing ∧ (framing 1 .h).segOpen = false ∧
    ¬(1023#16).toNat ≥ 2 ^ countWidth .numeric (framing 1 .h).bucket.toNat ∧
    (1024#16).toNat ≥ 2 ^ countWidth .numeric (framing 1 .h).bucket.toNat ∧
    fnc1Bits { framing 1 .h with fnc1 := .second } = [true, false, false, true] ∧
    fnc1Bits (framing 1 .h) = [] ∧
    (framed 1 .h 59).bitLen.toNat + (4 + 10) > 8 * (framed 1 .h 59).data.toNat ∧
    ¬(framed 1 .h 58).bitLen.toNat + (4 + 10) > 8 * (framed 1 .h 58).data.toNat := by decide +kernel
/-- An open segment with a full group held, its last character; a closed one; a character outside the
class; no room. -/
theorem witness_PutEmitsWhatItsCharacterCompletes :
    (let s := inSegment .numeric 1 2 99 (framing 1 .h);
      s.phase ≠ .error ∧ BufferOk s ∧ SegmentOk s ∧ s.segOpen = true ∧
      charValue s.segMode 0x39 = some 9 ∧ charValue s.segMode 0x3A = none) ∧
    (framing 1 .h).segOpen = false ∧
    (let s := inSegment .numeric 1 2 99 (framed 1 .h 63);
      SegmentOk s ∧ BufferOk s ∧ s.bitLen.toNat + 10 > 8 * s.data.toNat) := by decide +kernel
/-- A segment that fits exactly (68 of 72 bits and 4 of an indicator already there) and one that does
not. -/
theorem witness_SegmentTakesItsBitLength :
    (framing 1 .h).phase = .framing ∧ (framing 1 .h).segOpen = false ∧
    (∀ c ∈ List.replicate 7 (0xFF : BitVec 16), (charValue .byte c.toNat).isSome) ∧
    7 < 2 ^ countWidth .byte (framing 1 .h).bucket.toNat ∧
    (framed 1 .h 4).bitLen.toNat + segmentBits .byte 0 0 7 = 8 * (framed 1 .h 4).data.toNat ∧
    (framed 1 .h 5).bitLen.toNat + segmentBits .byte 0 0 7 > 8 * (framed 1 .h 5).data.toNat :=
  ⟨by decide, by decide, fun c hc => by rw [List.eq_of_mem_replicate hc]; rfl, by decide +kernel,
    by decide +kernel, by decide +kernel⟩
/-- An empty and a full buffer. -/
theorem witness_FinishPadsAndPacks :
    [framing 40 .l, framed 1 .h 0, framed 1 .h 69, framed 1 .h 72].all (fun s =>
      s.phase = .framing ∧ s.segOpen = false ∧ BufferOk s) = true := by decide +kernel
theorem witness_BlocksAndStreamHaveTheirLengths :
    Configured (framing 1 .h) ∧ Configured (framing 40 .l) ∧
    (List.replicate 9 (0 : Byte)).length = (framing 1 .h).data.toNat := by decide +kernel
/-- 1-H has one block and no long one; 5-Q has two of each. -/
theorem witness_EccInterleavesTheBlocks :
    (let s := at_ .padded (framing 1 .h); s.phase = .padded ∧ Configured s) ∧
    (let s := at_ .padded (framing 5 .q);
      s.phase = .padded ∧ Configured s ∧ s.blocks.toNat - s.raw.toNat % s.blocks.toNat = 2 ∧
      s.blocks.toNat = 4 ∧ s.raw.toNat / s.blocks.toNat - s.eccLen.toNat = 15) := by decide +kernel
theorem witness_DivisorVanishesAtThePowersOfAlpha : 0 ≤ 255 ∧ 255 ≤ 255 ∧ 254 < 255 := by decide
theorem witness_RemainderPropertiesHold : 1 ≤ 255 ∧ 255 ≤ 255 ∧ [(1 : Byte)].length = [2].length := by
  decide
theorem witness_DataWithRemainderIsACodeword : 30 ≤ 255 ∧ 29 < 30 := by decide
theorem witness_PlaceAlwaysCompletes :
    [framing 1 .m, framing 40 .h].all (fun s =>
      (at_ .interleaved s).phase = .interleaved ∧ Configured (at_ .interleaved s)) = true := by
  decide +kernel
set_option maxRecDepth 100000 in
/-- Version 1 has neither alignment nor version patterns; version 7 has both. -/
theorem witness_PlaceDrawsEveryFunctionPattern :
    (∃ t, numInterleaved.phase = .interleaved ∧ Configured numInterleaved ∧
      exec .place numInterleaved = .next t) ∧
    (∃ t, Configured (at_ .interleaved (framing 7 .q)) ∧
      exec .place (at_ .interleaved (framing 7 .q)) = .next t) ∧
    alignCentres 7 ≠ [] ∧ versionDraws 45 7 ≠ [] ∧ (8 ≤ 12 ∧ 12 + 8 < 21) ∧
    chebyshev ((0 : Int) - (3 : Nat)) ((7 : Int) - (3 : Nat)) ≤ 4 :=
  ⟨⟨_, by decide +kernel, by decide +kernel, exec_answer _ _⟩,
    ⟨_, by decide +kernel, exec_answer _ _⟩, by decide +kernel⟩
set_option maxRecDepth 100000 in
/-- The first free cell of version 1. -/
theorem witness_PlaceFillsFreeCellsInZigzagOrder :
    ∃ t, numInterleaved.phase = .interleaved ∧ Configured numInterleaved ∧
      exec .place numInterleaved = .next t ∧ (freePath numInterleaved)[0]? = some (20, 20) :=
  ⟨_, by decide +kernel, by decide +kernel, exec_answer _ _, by decide +kernel⟩
theorem witness_ZigzagVisitsEachCellOnce : 1 ≤ 1 ∧ 40 ≤ 40 := by decide
theorem witness_BalanceBandIsZeroToNine :
    0 ≤ sideLength 1 * sideLength 1 ∧ 441 ≤ sideLength 1 * sideLength 1 := by decide
theorem witness_PenaltyNeverExceedsItsBound : 1 ≤ 40 ∧ 40 ≤ 40 := by decide
set_option maxRecDepth 100000 in
/-- V-HW before MASK; its end is DONE by `test_mask_auto`. -/
theorem witness_AutoSelectionTakesTheLowestPenalty :
    ∃ t, hwPlaced.phase = .placed ∧ hwPlaced.maskAuto = true ∧ exec .mask hwPlaced = .next t ∧
      t.phase = .done :=
  ⟨_, by decide +kernel, by decide +kernel, exec_answer _ _, test_mask_auto.2.2.2⟩
theorem witness_FixedMaskScoresNothing :
    (at_ .placed (framing 1 .m)).phase = .placed ∧ (at_ .placed (framing 1 .m)).maskAuto = false := by
  decide
set_option maxRecDepth 100000 in
theorem witness_MaskAlwaysCompletes :
    numPlaced.phase = .placed ∧ Configured numPlaced ∧ FlagsOk numPlaced := by decide +kernel
/-- FRAMING with an unreachable geometry, in which PLACE, or after it MASK, would raise *Internal*. -/
def oddGeometry (size : BitVec 8) (raw : BitVec 12) (auto : Bool) : State :=
  { at_ .framing State.reset with size := size, raw := raw, blocks := 1, maskAuto := auto, version := 1 }
set_option maxRecDepth 100000 in
/-- The four commands succeeding; FINISH, PLACE and MASK failing. -/
theorem witness_RunIsTheFourCommandsInOrder :
    (numFramed.phase = .framing ∧ (answer (exec .finish numFramed)).phase = .padded ∧
      (answer (exec .ecc (answer (exec .finish numFramed)))).phase = .interleaved ∧
      numPlaced.phase = .placed ∧ (answer (exec .mask numPlaced)).phase = .done) ∧
    (let s := inSegment .byte 1 0 0 (framing 1 .m);
      s.phase ≠ .error ∧ (answer (exec .finish s)).phase = .error) ∧
    (let s := answer (exec .ecc (answer (exec .finish (oddGeometry 0 1 false))));
      s.phase = .interleaved ∧ (answer (exec .place s)).phase = .error) ∧
    (let s := answer (exec .place (answer (exec .ecc (answer (exec .finish (oddGeometry 0 0 true))))));
      s.phase = .placed ∧ (answer (exec .mask s)).phase = .error) := by decide +kernel
/-- Empty and partly framed; the first entries no command writes. -/
theorem witness_RunAlwaysCompletes :
    (framing 40 .l).data.toNat ≤ 2956 ∧ numFramed.raw.toNat ≤ 26 ∧
    [framing 40 .l, numFramed].all (fun s => Inv s ∧ s.phase = .framing ∧ s.segOpen = false) = true := by
  decide +kernel
set_option maxRecDepth 100000 in
/-- V-NUM; its end is DONE by `test_run_numeric`. -/
theorem witness_FinishedSymbolCarriesTheStream :
    ∃ t, Inv numFramed ∧ numFramed.phase = .framing ∧ exec .run numFramed = .next t ∧
      statusWord t = 0x40005 ∧ (freePath numFramed)[207]? = some (0, 12) :=
  ⟨_, by decide +kernel, by decide +kernel, exec_answer _ _, test_run_numeric.1, by decide +kernel⟩
theorem witness_StepKeepsTheInvariant :
    let s := withEvent (cmd (.put 0x39)) (inSegment .numeric 1 2 99 (framing 1 .h))
    Inv s ∧ ∃ t, step s = .next t :=
  ⟨by decide +kernel, by rw [step_command (by decide)]; exact exec_next _ _⟩
set_option maxRecDepth 100000 in
theorem witness_StepKeepsFunctionFlagsExact :
    Inv (withEvent (cmd .mask) numPlaced) ∧ FlagsOk (withEvent (cmd .mask) numPlaced) ∧
      ∃ t, step (withEvent (cmd .mask) numPlaced) = .next t :=
  ⟨by decide +kernel, witness_MaskAlwaysCompletes.2.2, by
    rw [step_command (by decide)]; exact exec_next _ _⟩
/-- Two states in PADDED that differ past `S_DATA`, in the stream and in a module. -/
theorem witness_UnwrittenArraysAreNeverObserved :
    let s := withEvent (cmd .ecc) (at_ .padded (framing 1 .h))
    let t := { s with
      dataCw := List.replicate 9 0 ++ [7]
      stream := [1]
      matrix := ⟨setCell s.matrix.mod 0 0 true, s.matrix.fn⟩ }
    ConfigOk s ∧ SameButUnwritten s t ∧ s ≠ t ∧ ∃ s', step s = .next s' :=
  ⟨by decide +kernel, ⟨rfl, by decide +kernel, by decide +kernel, by decide +kernel⟩,
    fun h => absurd (congrArg State.stream h) (by decide +kernel),
    by rw [step_command (by decide)]; exact exec_next _ _⟩

/-- R360: a failing run shows its error and opcode, an incomplete one nothing. -/
theorem test_run_end_failure :
    (answer (exec (.appendBits 1) (framed 1 .h 72))).runEnd = .failure .dataTooLong 0x20 ∧
    (framed 1 .h 72).runEnd = .incomplete := by decide +kernel
set_option maxRecDepth 100000 in
/-- R360, V-NUM, R296: a successful run shows RESULT and the modules (here the first row's start, under
mask 2). -/
theorem test_run_end_success :
    (match (answer (exec .mask numPlaced)).runEnd with
      | .success o => (o.result, o.modules.length, (o.modules.getD 0 []).take 8)
      | .failure _ _ => (0, 0, [])
      | .incomplete => (0, 0, [])) = (0x0A, 21, [3, 3, 3, 3, 3, 3, 3, 2]) := by decide +kernel

theorem witness_CharacterClassesAndIndicatorsHold :
    [0x30, 0x39].map (charValue .numeric) = [some 0, some 9] ∧
    [0x2F, 0x3A].map (charValue .numeric) = [none, none] ∧
    [0x30, 0x5A, 0x3A, 0x61].map (charValue .alphanumeric) = [some 0, some 35, some 44, none] ∧
    [0xFF, 0x100].map (charValue .byte) = [some 0xFF, none] ∧
    [0x8140, 0x9FFC, 0x9FFD, 0xE03F, 0xE040, 0xEBBF, 0xEBC0].map (charValue .kanji) =
      [some 0, some 5948, none, none, some 5952, some 8191, none] := by decide +kernel
theorem witness_MasksAndPenaltyFollowTheirRules :
    0 < 8 ∧ 7 < 8 ∧ maskConditions.length = 8 ∧ 1 ≤ 40 ∧ 40 ≤ 40 ∧ sideLength 40 = 177 := by decide

end Sys2Proof.Tests
end

section
/-! PROOFS. The step on a pending host event (spec/00_scope.md R12): what a write to `CMD` runs, and
that nothing in the window stops the core. -/

namespace Sys2Proof.Machine

/-! ### A write to `CMD` -/

/-- The oldest event happens at the state with it taken off the list (R12, R92). -/
theorem step_of_pending {s : State} {e : HostEvent} {rest : List HostEvent}
    (h : s.pending = e :: rest) : step s = hostEvent e { s with pending := rest } := by
  rw [step, nextEvent, h]

theorem hostEvent_write_cmd (w : Word) (s : State) :
    hostEvent (.write 0x004 4 w) s = commandStep w s := rfl

theorem step_of_pending_cmd {s : State} {w : Word} {rest : List HostEvent}
    (h : s.pending = .write 0x004 4 w :: rest) :
    step s = commandStep w { s with pending := rest } :=
  (step_of_pending h).trans (hostEvent_write_cmd w _)

theorem commandStep_of_decode_ok {w : Word} {i : Instr} (h : decode w = .ok i) (s : State) :
    commandStep w s = exec i s := by
  rw [commandStep, h]

/-- A word that is no command is a command whose body always fails (R111). -/
theorem commandStep_of_decode_error {w : Word} {e : DecodeError} (h : decode w = .error e)
    (s : State) :
    commandStep w s = command (opcodeOf w) (fun _ => .error .invalidArgument) s := by
  rw [commandStep, h]

/-! ### Every write answers a next state -/

theorem commandStep_next (w : Word) (s : State) : ∃ t, commandStep w s = .next t := by
  rcases commandStep_cases w s with ⟨i, _, h⟩ | ⟨_, _, _, h⟩ | ⟨_, _, _, h⟩
  · rw [h]
    exact exec_next i s
  · exact ⟨_, h⟩
  · exact ⟨_, h⟩

/-- `CMD` runs a command; every other register takes the word or ignores it (R134 to R138). -/
theorem writeReg_next (r : Reg) (v : Word) (s : State) : ∃ t, writeReg r v s = .next t := by
  cases r with
  | cmd => exact commandStep_next v s
  | _ => exact ⟨_, rfl⟩

theorem busWrite_next (offset width : Nat) (v : Word) (s : State) :
    ∃ t, busWrite offset width v s = .next t := by
  unfold busWrite
  by_cases ha : admitted offset width
  · rw [if_pos ha]
    cases registerAt offset with
    | some r => exact writeReg_next r v s
    | none => exact ⟨s, rfl⟩
  · exact ⟨s, if_neg ha⟩

/-! ### The obligations -/

/-- Settles O12: of everything a step can do (`step_cases`), only an access outside the window stops
the core. -/
theorem eventsInTheWindowNeverStopTheCore : Obligations.EventsInTheWindowNeverStopTheCore := by
  intro s hwindow
  rcases step_cases s with ⟨_, h⟩ | ⟨_, _, _, _, _, h⟩ | ⟨off, width, v, _, _, _, h⟩ | ⟨_, _, h⟩ |
    ⟨e, rest, hp, _, hout⟩
  · exact ⟨_, h⟩
  · exact ⟨_, h⟩
  · rw [h]
    exact busWrite_next off width v _
  · exact ⟨_, h⟩
  · have hin := hwindow e rest hp
    rcases hout with ⟨off, _, rfl, hoff⟩ | ⟨off, _, _, rfl, hoff⟩
    · exact absurd hin (Nat.not_lt.mpr hoff)
    · exact absurd hin (Nat.not_lt.mpr hoff)

/-- Settles O5: the step is `commandStep`, whose word decodes or is a command that always fails. -/
theorem stepRunsTheDecodedCommand : Obligations.StepRunsTheDecodedCommand := by
  intro s w rest hp
  rw [step_of_pending_cmd hp]
  refine ⟨fun i hi => commandStep_of_decode_ok hi _, fun e he hphase => ?_, fun e he hphase => ?_⟩
  · rw [commandStep_of_decode_error he]
    exact command_error hphase rfl
  · rw [commandStep_of_decode_error he]
    exact command_in_error hphase

end Sys2Proof.Machine
end

section
/-! PROOFS. What a command body that succeeds has done, one inversion lemma per body, and the codes a
body can raise. The invariants and the frame statements are read off these lemmas. -/

namespace Sys2Proof.Machine

/-! ### The bit buffer grows -/

/-- Bits added at the end of the buffer, the length register counting them (R45, R160). -/
def grow (bits : List Bool) (s : State) : State :=
  { s with
    bitBuf := s.bitBuf ++ bits
    bitLen := BitVec.ofNat 15 (s.bitLen.toNat + bits.length) }

/-- `t` is `s` with bits added that the capacity holds, or with none. -/
def Grown (s t : State) : Prop :=
  ∃ bits, (bits = [] ∨ s.bitLen.toNat + bits.length ≤ 8 * s.data.toNat) ∧ t = grow bits s

@[simp] theorem grow_nil (s : State) : grow [] s = s := by
  simp [grow]

theorem appended_eq_grow (value n : Nat) (s : State) :
    appended value n s = grow (bitsOf value n) s := by
  simp [appended, grow]

theorem grow_bitLen {bits : List Bool} {s : State}
    (h : bits = [] ∨ s.bitLen.toNat + bits.length ≤ 8 * s.data.toNat) :
    (grow bits s).bitLen.toNat = s.bitLen.toNat + bits.length := by
  rcases h with rfl | h
  · simp
  · have := s.data.isLt
    simp only [grow, BitVec.toNat_ofNat]
    omega

theorem grow_grow {a b : List Bool} {s : State}
    (h : a = [] ∨ s.bitLen.toNat + a.length ≤ 8 * s.data.toNat) :
    grow b (grow a s) = grow (a ++ b) s := by
  have hlen := grow_bitLen h
  rw [grow, hlen]
  simp [grow, Nat.add_assoc]

theorem Grown.refl (s : State) : Grown s s := ⟨[], .inl rfl, (grow_nil s).symm⟩

theorem Grown.trans {s t u : State} (h₁ : Grown s t) (h₂ : Grown t u) : Grown s u := by
  obtain ⟨a, ha, rfl⟩ := h₁
  obtain ⟨b, hb, rfl⟩ := h₂
  refine ⟨a ++ b, ?_, grow_grow ha⟩
  rw [grow_bitLen ha] at hb
  rcases hb with rfl | hb
  · simpa using ha
  · exact .inr (by simpa [grow, Nat.add_assoc] using hb)

theorem appendBits_grown {value n : Nat} {s t : State} (h : appendBits value n s = .ok t) :
    Grown s t := by
  obtain ⟨-, -, hfit, rfl⟩ := appendBits_ok.1 h
  exact ⟨bitsOf value n, .inr (by simpa using hfit), appended_eq_grow value n s⟩

/-- An append that succeeds leaves the length within the capacity. -/
theorem appendBits_bitLen {value n : Nat} {s t : State} (h : appendBits value n s = .ok t) :
    t.bitLen.toNat = s.bitLen.toNat + n ∧ s.bitLen.toNat + n ≤ 8 * s.data.toNat := by
  obtain ⟨-, -, hfit, rfl⟩ := appendBits_ok.1 h
  exact ⟨appended_bitLen hfit, hfit⟩

theorem Grown.keeps_bits {s t : State} (h : Grown s t) : s.bitBuf <+: t.bitBuf := by
  obtain ⟨bits, -, rfl⟩ := h
  exact List.prefix_append _ _

theorem Grown.bufferOk {s t : State} (h : Grown s t) (hs : BufferOk s) : BufferOk t := by
  obtain ⟨bits, hfit, rfl⟩ := h
  obtain ⟨hlen, hcap⟩ := hs
  have hgrow := grow_bitLen hfit
  refine ⟨by rw [hgrow, hlen]; simp [grow], ?_⟩
  show (grow bits s).bitLen.toNat ≤ 8 * s.data.toNat
  rw [hgrow]
  rcases hfit with rfl | hfit
  · simpa using hcap
  · exact hfit

/-! ### Framing -/

theorem betweenSegments_iff {s : State} :
    betweenSegments s = true ↔ s.phase = .framing ∧ s.segOpen = false := by
  simp [betweenSegments]

/-- What a body guarded by `if ¬ c then fail` needs of `c` when it succeeds. -/
theorem guard_ok {c : Prop} [Decidable c] {e : ErrCode} {x : Except ErrCode State} {t : State}
    (h : (if c then .error e else x) = .ok t) : ¬c ∧ x = .ok t := by
  by_cases hc : c
  · rw [if_pos hc] at h
    cases h
  · rw [if_neg hc] at h
    exact ⟨hc, h⟩

theorem between_ok {s t : State} {x : Except ErrCode State}
    (h : (if !betweenSegments s then .error .invalidArgument else x) = .ok t) :
    s.phase = .framing ∧ s.segOpen = false ∧ x = .ok t := by
  obtain ⟨hb, hx⟩ := guard_ok h
  obtain ⟨hphase, hopen⟩ := betweenSegments_iff.1 (by simpa using hb)
  exact ⟨hphase, hopen, hx⟩

theorem appendBitsBody_ok {n : BitVec 6} {s t : State} (h : appendBitsBody n s = .ok t) :
    s.phase = .framing ∧ Grown s t := by
  obtain ⟨hphase, -, hx⟩ := between_ok h
  exact ⟨hphase, appendBits_grown hx⟩

theorem saHeaderBody_ok {p : BitVec 8} {c : BitVec 5} {i : BitVec 4} {s t : State}
    (h : saHeaderBody p c i s = .ok t) :
    s.phase = .framing ∧ ∃ u, Grown s u ∧ t = { u with saDone := true } := by
  obtain ⟨hphase, -, hx⟩ := between_ok h
  obtain ⟨-, hx⟩ := guard_ok hx
  obtain ⟨-, hx⟩ := guard_ok hx
  obtain ⟨a, ha, hx⟩ := bind_ok.1 hx
  obtain ⟨b, hb, hx⟩ := bind_ok.1 hx
  obtain ⟨c, hc, hx⟩ := bind_ok.1 hx
  obtain ⟨d, hd, hx⟩ := bind_ok.1 hx
  cases hx
  exact ⟨hphase, d, (appendBits_grown ha).trans <| (appendBits_grown hb).trans <|
    (appendBits_grown hc).trans (appendBits_grown hd), rfl⟩

theorem eciBody_ok {v : BitVec 20} {s t : State} (h : eciBody v s = .ok t) :
    s.phase = .framing ∧ Grown s t := by
  obtain ⟨hphase, -, hx⟩ := between_ok h
  obtain ⟨-, hx⟩ := guard_ok hx
  obtain ⟨a, ha, hx⟩ := bind_ok.1 hx
  exact ⟨hphase, (appendBits_grown ha).trans (appendBits_grown hx)⟩

/-- The FNC1 indicator is emitted once, and only where FNC1 is set (R179). -/
theorem emitFnc1_ok {s t : State} (h : emitFnc1 s = .ok t) :
    ∃ u done, Grown s u ∧ t = { u with fnc1Done := done } ∧
      (done = true → s.fnc1Done = true ∨ s.fnc1 ≠ .absent) := by
  unfold emitFnc1 at h
  cases hf : fnc1Indicator s.fnc1 with
  | none =>
    rw [hf] at h
    cases h
    exact ⟨s, s.fnc1Done, .refl s, rfl, .inl⟩
  | some indicator =>
    have hset : s.fnc1 ≠ .absent := by
      intro habs
      rw [habs] at hf
      cases hf
    rw [hf] at h
    by_cases hd : s.fnc1Done
    · simp only [hd, if_true] at h
      cases h
      exact ⟨s, s.fnc1Done, .refl s, rfl, .inl⟩
    · simp only [hd] at h
      obtain ⟨u, hu, hx⟩ := bind_ok.1 h
      cases hx
      exact ⟨u, true, appendBits_grown hu, rfl, fun _ => .inr hset⟩

theorem segBeginBody_ok {count : BitVec 16} {mode : Mode} {s t : State}
    (h : segBeginBody count mode s = .ok t) :
    s.phase = .framing ∧ ∃ u done, Grown s u ∧
      t = openSegment mode count { u with fnc1Done := done } ∧
      (done = true → s.fnc1Done = true ∨ s.fnc1 ≠ .absent) := by
  obtain ⟨hphase, -, hx⟩ := between_ok h
  obtain ⟨-, hx⟩ := guard_ok hx
  obtain ⟨a, ha, hx⟩ := bind_ok.1 hx
  obtain ⟨b, hb, hx⟩ := bind_ok.1 hx
  obtain ⟨c, hc, hx⟩ := bind_ok.1 hx
  cases hx
  obtain ⟨u, done, hu, rfl, hdone⟩ := emitFnc1_ok hb
  obtain ⟨bits, hfit, rfl⟩ := appendBits_grown hc
  refine ⟨hphase, grow bits u, done, (appendBits_grown ha).trans (hu.trans ⟨bits, hfit, rfl⟩), rfl,
    fun h => ?_⟩
  obtain ⟨abits, -, rfl⟩ := appendBits_grown ha
  exact hdone h

/-! ### PUT -/

/-- The values a mode's held characters are made of (R170, R171). -/
def valueOk (mode : Mode) (v : Nat) : Prop :=
  (mode = .numeric → v < 10) ∧ (mode = .alphanumeric → v < 45)

theorem alnumValue_lt {c v : Nat} (h : alnumValue c = some v) : v < 45 := by
  unfold alnumValue at h
  split at h
  · cases h; omega
  split at h
  · cases h; omega
  split at h <;> cases h <;> decide

theorem charValue_valueOk {mode : Mode} {c v : Nat} (h : charValue mode c = some v) :
    valueOk mode v := by
  constructor
  · rintro rfl
    have h : (if 0x30 ≤ c ∧ c ≤ 0x39 then some (c - 0x30) else none) = some v := h
    split at h
    · cases h; omega
    · cases h
  · rintro rfl
    exact alnumValue_lt h

theorem hold_self (s : State) : hold s.pendN.toNat s.pendVal.toNat s = s := by
  simp [hold]

/-- Two held counts fit their registers, so what `hold` stores is what it is given. -/
theorem heldOk_hold {mode : Mode} {n v : Nat} (h : heldOk mode n v = true) :
    heldOk mode (BitVec.ofNat 2 n).toNat (BitVec.ofNat 10 v).toNat = true := by
  have hsmall : n < 4 ∧ v < 1024 := by
    cases mode <;> simp only [heldOk, Bool.and_eq_true, decide_eq_true_eq, beq_iff_eq] at h
    · have : 10 ^ n ≤ 10 ^ 2 := Nat.pow_le_pow_right (by decide) h.1
      omega
    all_goals omega
  rwa [BitVec.toNat_ofNat, BitVec.toNat_ofNat, Nat.mod_eq_of_lt hsmall.1, Nat.mod_eq_of_lt hsmall.2]

theorem heldOk_zero (mode : Mode) : heldOk mode 0 0 = true := by
  cases mode <;> rfl

theorem numericPut_ok {d : Nat} {s t : State} (h : numericPut d s = .ok t) :
    ∃ u n v, Grown s u ∧ t = hold n v u ∧
      (heldOk .numeric s.pendN.toNat s.pendVal.toNat = true → d < 10 →
        heldOk .numeric n v = true) := by
  unfold numericPut at h
  by_cases hn : s.pendN.toNat + 1 = 3
  · simp only [hn, if_true] at h
    obtain ⟨u, hu, hx⟩ := bind_ok.1 h
    cases hx
    exact ⟨u, 0, 0, appendBits_grown hu, rfl, fun _ _ => rfl⟩
  · simp only [hn, if_false] at h
    cases h
    refine ⟨s, _, _, .refl s, rfl, fun hs hd => ?_⟩
    simp only [heldOk, Bool.and_eq_true, decide_eq_true_eq] at hs ⊢
    rw [Nat.pow_succ]
    omega

theorem alnumPut_ok {k : Nat} {s t : State} (h : alnumPut k s = .ok t) :
    ∃ u n v, Grown s u ∧ t = hold n v u ∧ (k < 45 → heldOk .alphanumeric n v = true) := by
  unfold alnumPut at h
  by_cases hn : s.pendN = 0
  · rw [if_pos hn] at h
    cases h
    exact ⟨s, 1, k, .refl s, rfl, fun hk => by simp [heldOk, hk]⟩
  · rw [if_neg hn] at h
    obtain ⟨u, hu, hx⟩ := bind_ok.1 h
    cases hx
    exact ⟨u, 0, 0, appendBits_grown hu, rfl, fun _ => rfl⟩

/-- Bytes and Kanji characters are emitted whole, so the held group stays. -/
theorem grown_hold {value n : Nat} {s t : State} (h : appendBits value n s = .ok t) :
    Grown s t ∧ t = hold s.pendN.toNat s.pendVal.toNat t := by
  obtain ⟨bits, hfit, rfl⟩ := appendBits_grown h
  exact ⟨⟨bits, hfit, rfl⟩, (hold_self (grow bits s)).symm⟩

theorem putValue_ok {mode : Mode} {v : Nat} {s t : State} (h : putValue mode v s = .ok t) :
    ∃ u n held, Grown s u ∧ t = hold n held u ∧
      (heldOk mode s.pendN.toNat s.pendVal.toNat = true → valueOk mode v →
        heldOk mode n held = true) := by
  cases mode with
  | numeric =>
    obtain ⟨u, n, held, hu, ht, hok⟩ := numericPut_ok h
    exact ⟨u, n, held, hu, ht, fun hs hv => hok hs (hv.1 rfl)⟩
  | alphanumeric =>
    obtain ⟨u, n, held, hu, ht, hok⟩ := alnumPut_ok h
    exact ⟨u, n, held, hu, ht, fun _ hv => hok (hv.2 rfl)⟩
  | byte => exact ⟨t, _, _, (grown_hold h).1, (grown_hold h).2, fun hs _ => hs⟩
  | kanji => exact ⟨t, _, _, (grown_hold h).1, (grown_hold h).2, fun hs _ => hs⟩

theorem segmentClose_ok {s t : State} (h : segmentClose s = .ok t) :
    ∃ u, Grown s u ∧ t = { hold 0 0 u with segOpen := false } := by
  unfold segmentClose at h
  cases hw : flushWidth s.segMode s.pendN.toNat with
  | none =>
    rw [hw] at h
    cases h
    exact ⟨s, .refl s, rfl⟩
  | some w =>
    rw [hw] at h
    obtain ⟨u, hu, hx⟩ := bind_ok.1 h
    cases hx
    exact ⟨u, appendBits_grown hu, rfl⟩

/-- PUT: a character less to come, the held group replaced, the segment closed with its last
character and then nothing held (R181, R186). -/
theorem putBody_ok {c : BitVec 16} {s t : State} (h : putBody c s = .ok t) :
    s.phase = .framing ∧ s.segOpen = true ∧ ∃ u n held, Grown s u ∧
      t = { hold n held u with
        remain := s.remain - 1
        segOpen := decide (s.remain - 1 ≠ 0) } ∧
      (s.remain - 1 = 0 → n = 0 ∧ held = 0) ∧
      (heldOk s.segMode s.pendN.toNat s.pendVal.toNat = true → heldOk s.segMode n held = true) := by
  obtain ⟨hguard, hx⟩ := guard_ok h
  obtain ⟨hphase, hopen⟩ : s.phase = .framing ∧ s.segOpen = true := by simpa using hguard
  refine ⟨hphase, hopen, ?_⟩
  cases hv : charValue s.segMode c.toNat with
  | none =>
    rw [hv] at hx
    cases hx
  | some v =>
    rw [hv] at hx
    obtain ⟨w, hw, hx⟩ := bind_ok.1 hx
    obtain ⟨u, n, held, ⟨bits, hfit, rfl⟩, rfl, hheld⟩ := putValue_ok hw
    have hx : (if s.remain - 1 = 0 then
        segmentClose { hold n held (grow bits s) with remain := s.remain - 1 }
      else .ok { hold n held (grow bits s) with remain := s.remain - 1 }) = .ok t := hx
    by_cases hlast : s.remain - 1 = 0
    · rw [if_pos hlast] at hx
      obtain ⟨u, ⟨bits', hfit', rfl⟩, rfl⟩ := segmentClose_ok hx
      refine ⟨grow bits' (grow bits s), 0, 0, .trans ⟨bits, hfit, rfl⟩ ⟨bits', hfit', rfl⟩, ?_,
        fun _ => ⟨rfl, rfl⟩, fun _ => heldOk_zero _⟩
      rw [decide_eq_false (not_not.2 hlast)]
      rfl
    · rw [if_neg hlast] at hx
      cases hx
      refine ⟨grow bits s, n, held, ⟨bits, hfit, rfl⟩, ?_, fun h => absurd h hlast,
        fun hs => hheld hs (charValue_valueOk hv)⟩
      rw [decide_eq_true hlast, ← hopen]
      rfl

/-! ### FINISH -/

@[simp] theorem packBytes_length (n : Nat) (bits : List Bool) : (packBytes n bits).length = n := by
  induction n generalizing bits with
  | zero => rfl
  | succ n ih => simp [packBytes, ih]

/-- From a whole number of bytes the pad loop fills the buffer to the capacity (R193). -/
theorem padLoop_ok {rounds p : Nat} {s t : State} (h : padLoop rounds p s = .ok t)
    (haligned : s.bitLen.toNat % 8 = 0) (hcap : s.bitLen.toNat ≤ 8 * s.data.toNat)
    (hrounds : 8 * s.data.toNat ≤ s.bitLen.toNat + 8 * rounds) :
    Grown s t ∧ t.bitLen.toNat = 8 * s.data.toNat := by
  induction rounds generalizing p s with
  | zero =>
    cases h
    exact ⟨.refl _, by omega⟩
  | succ rounds ih =>
    unfold padLoop at h
    by_cases hlt : s.bitLen.toNat < 8 * s.data.toNat
    · rw [if_pos hlt] at h
      obtain ⟨u, hu, hx⟩ := bind_ok.1 h
      obtain ⟨hlen, hfit⟩ := appendBits_bitLen hu
      have hgrown := appendBits_grown hu
      have hdata : u.data = s.data := by
        obtain ⟨_, -, rfl⟩ := hgrown
        rfl
      obtain ⟨htrans, hfull⟩ := ih hx (by omega) (by rw [hdata]; omega) (by rw [hdata]; omega)
      exact ⟨hgrown.trans htrans, by rw [hfull, hdata]⟩
    · rw [if_neg hlt] at h
      cases h
      exact ⟨.refl _, by omega⟩

theorem finishBody_ok {s t : State} (h : finishBody s = .ok t) :
    s.phase = .framing ∧ s.segOpen = false ∧
    ∃ u, Grown s u ∧ u.bitLen.toNat = 8 * s.data.toNat ∧
      t = { u with
        dataCw := overwrite s.dataCw (packBytes s.data.toNat u.bitBuf)
        phase := .padded } := by
  obtain ⟨hphase, hopen, hx⟩ := between_ok h
  obtain ⟨a, ha, hx⟩ := bind_ok.1 hx
  obtain ⟨b, hb, hx⟩ := bind_ok.1 hx
  obtain ⟨c, hc, hx⟩ := bind_ok.1 hx
  cases hx
  obtain ⟨hblen, hbfit⟩ := appendBits_bitLen hb
  have hsb := (appendBits_grown ha).trans (appendBits_grown hb)
  have hbdata : b.data = s.data ∧ a.data = s.data := by
    obtain ⟨_, -, rfl⟩ := appendBits_grown hb
    obtain ⟨_, -, rfl⟩ := appendBits_grown ha
    exact ⟨rfl, rfl⟩
  obtain ⟨hbs, has⟩ := hbdata
  rw [has] at hbfit
  obtain ⟨hbc, hfull⟩ := padLoop_ok hc (by omega) (by rw [hbs]; omega) (by rw [hbs]; omega)
  have hsc := hsb.trans hbc
  refine ⟨hphase, hopen, c, hsc, by rw [hfull, hbs], ?_⟩
  obtain ⟨_, -, rfl⟩ := hsc
  rfl

/-! ### CONFIG, ECC, PLACE, MASK, RUN -/

theorem configBody_ok {f : BitVec 2} {auto : Bool} {id : BitVec 3} {e : Level} {v : BitVec 6}
    {s t : State} (h : configBody f auto id e v s = .ok t) :
    s.phase = .idle ∧ 1 ≤ v.toNat ∧ v.toNat ≤ 40 ∧ ∃ fnc1, t = latchConfig fnc1 auto id e v s := by
  obtain ⟨hphase, hx⟩ := guard_ok h
  obtain ⟨hversion, hx⟩ := guard_ok hx
  cases hf : fnc1OfCode f with
  | none =>
    rw [hf] at hx
    cases hx
  | some fnc1 =>
    rw [hf] at hx
    cases hx
    exact ⟨not_not.1 hphase, by omega, by omega, fnc1, rfl⟩

theorem eccBody_ok {s t : State} (h : eccBody s = .ok t) :
    s.phase = .padded ∧ t = { s with
      stream := overwrite s.stream (codewordStream s.blocks.toNat s.eccLen.toNat s.raw.toNat
        (entries s.data.toNat s.dataCw))
      phase := .interleaved } := by
  obtain ⟨hphase, hx⟩ := guard_ok h
  cases hx
  exact ⟨not_not.1 hphase, rfl⟩

/-- The matrix PLACE starts its data placement from: the square cleared, the function patterns drawn
(R255). -/
def patterned (s : State) : Matrix :=
  drawAll (functionDraws s.size.toNat s.version.toNat s.ecl) (clearSquare s.size.toNat s.matrix)

theorem placeBody_ok {s t : State} (h : placeBody s = .ok t) :
    s.phase = .interleaved ∧
    (placeData s.size.toNat s.raw.toNat s.stream (patterned s)).2 = 8 * s.raw.toNat ∧
    t = { s with
      matrix := (placeData s.size.toNat s.raw.toNat s.stream (patterned s)).1
      phase := .placed } := by
  obtain ⟨hphase, hx⟩ := guard_ok h
  obtain ⟨hcount, hx⟩ := guard_ok hx
  cases hx
  exact ⟨not_not.1 hphase, not_not.1 hcount, rfl⟩

theorem scoreMask_ok {k : Nat} {s t : State} (h : scoreMask s k = .ok t) :
    ∃ pen m, m.fn = s.matrix.fn ∧ t = { s with pen := pen, matrix := m } := by
  unfold scoreMask at h
  cases hp : penalty s.size.toNat (applyMask k s.size.toNat s.matrix).mod with
  | error c =>
    simp only [hp] at h
    cases h
  | ok p =>
    simp only [hp] at h
    cases h
    exact ⟨_, applyMask k s.size.toNat (applyMask k s.size.toNat s.matrix), rfl, rfl⟩

theorem scoreMasks_ok {ks : List Nat} {s t : State} (h : scoreMasks ks s = .ok t) :
    ∃ pen m, m.fn = s.matrix.fn ∧ t = { s with pen := pen, matrix := m } := by
  induction ks generalizing s with
  | nil =>
    cases h
    exact ⟨_, _, rfl, rfl⟩
  | cons k ks ih =>
    unfold scoreMasks at h
    cases hk : scoreMask s k with
    | error c =>
      rw [hk] at h
      cases h
    | ok u =>
      rw [hk] at h
      obtain ⟨pen, m, hfn, rfl⟩ := scoreMask_ok hk
      obtain ⟨pen', m', hfn', rfl⟩ := ih h
      exact ⟨pen', m', hfn'.trans hfn, rfl⟩

theorem chooseMask_ok {s u : State} {best : Nat} (h : chooseMask s = .ok (u, best)) :
    ∃ pen m, m.fn = s.matrix.fn ∧
      u = { s with
        pen := pen
        penValid := if s.maskAuto then 0xFF#8 else s.penValid
        matrix := m } ∧
      (s.maskAuto = false → pen = s.pen ∧ best = s.maskId.toNat) := by
  unfold chooseMask at h
  by_cases hauto : s.maskAuto = true
  · rw [if_pos hauto] at h
    rw [if_pos hauto]
    cases hk : scoreMasks (List.range 8) s with
    | error c =>
      rw [hk] at h
      cases h
    | ok w =>
      rw [hk] at h
      obtain ⟨pen, m, hfn, rfl⟩ := scoreMasks_ok hk
      cases h
      exact ⟨pen, m, hfn, rfl, fun hfixed => by simp [hauto] at hfixed⟩
  · rw [if_neg hauto] at h
    rw [if_neg hauto]
    cases h
    exact ⟨_, _, rfl, rfl, fun _ => ⟨rfl, rfl⟩⟩

theorem maskBody_ok {s t : State} (h : maskBody s = .ok t) :
    s.phase = .placed ∧ ∃ pen m k dark, m.fn = s.matrix.fn ∧
      (s.maskAuto = false → pen = s.pen ∧ k = s.maskId.toNat) ∧
      t = { s with
        matrix := finalMatrix s.size.toNat s.version.toNat s.ecl k m
        pen := pen
        penValid := if s.maskAuto then 0xFF#8 else s.penValid
        chosen := BitVec.ofNat 3 k
        dark := dark
        resultValid := true
        phase := .done } := by
  obtain ⟨hphase, hx⟩ := guard_ok h
  refine ⟨not_not.1 hphase, ?_⟩
  cases hc : chooseMask s with
  | error c =>
    rw [hc] at hx
    cases hx
  | ok r =>
    obtain ⟨u, k⟩ := r
    rw [hc] at hx
    obtain ⟨pen, m, hfn, rfl, hfixed⟩ := chooseMask_ok hc
    cases hx
    exact ⟨pen, m, k, _, hfn, hfixed, rfl⟩

theorem runBody_ok {s t : State} (h : runBody s = .ok t) :
    ∃ a b c, finishBody s = .ok a ∧ eccBody a = .ok b ∧ placeBody b = .ok c ∧ maskBody c = .ok t := by
  obtain ⟨a, ha, hx⟩ := bind_ok.1 h
  obtain ⟨b, hb, hx⟩ := bind_ok.1 hx
  obtain ⟨c, hc, hx⟩ := bind_ok.1 hx
  exact ⟨a, b, c, ha, hb, hc, hx⟩

end Sys2Proof.Machine
end

section
/-! PROOFS. The codes a body raises, and everything a step that answers a next state has done: the
invariants and frames over steps are case splits on `StepEffect`. -/

namespace Sys2Proof.Machine

/-! ### The codes a body raises -/

/-- A code some command raises: not the code of no error, nor the reserved code 4 (R320). -/
def Raised (c : ErrCode) : Prop := c ≠ .noError ∧ c ≠ .invalidEciEscape

/-- If it fails, it raises a code some command raises. -/
def FailsRaised {α : Type} (x : Except ErrCode α) : Prop := ∀ c, x = .error c → Raised c

theorem failsRaised_ok {α : Type} (a : α) : FailsRaised (.ok a : Except ErrCode α) :=
  fun _ h => nomatch h

theorem failsRaised_error {α : Type} {c : ErrCode} (h : Raised c) :
    FailsRaised (.error c : Except ErrCode α) := by
  rintro _ ⟨⟩
  exact h

theorem failsRaised_invalid {α : Type} :
    FailsRaised (.error .invalidArgument : Except ErrCode α) :=
  failsRaised_error (by simp [Raised])

theorem FailsRaised.ite {α : Type} {c : Prop} [Decidable c] {x y : Except ErrCode α}
    (hx : FailsRaised x) (hy : FailsRaised y) : FailsRaised (if c then x else y) := by
  by_cases h : c
  · rwa [if_pos h]
  · rwa [if_neg h]

/-- A guard that fails with *InvalidArgument*. -/
theorem FailsRaised.guard {α : Type} {c : Prop} [Decidable c] {x : Except ErrCode α}
    (hx : FailsRaised x) : FailsRaised (if c then .error .invalidArgument else x) :=
  .ite failsRaised_invalid hx

theorem FailsRaised.bind {α β : Type} {x : Except ErrCode α} {f : α → Except ErrCode β}
    (hx : FailsRaised x) (hf : ∀ a, FailsRaised (f a)) : FailsRaised (x >>= f) := by
  intro c h
  rcases bind_error.1 h with h | ⟨a, -, h⟩
  · exact hx c h
  · exact hf a c h

theorem appendBits_failsRaised (value n : Nat) (s : State) : FailsRaised (appendBits value n s) :=
  .guard <| .ite (failsRaised_error (by simp [Raised])) (failsRaised_ok _)

theorem emitFnc1_failsRaised (s : State) : FailsRaised (emitFnc1 s) := by
  unfold emitFnc1
  cases fnc1Indicator s.fnc1 with
  | none => exact failsRaised_ok _
  | some indicator =>
    exact .ite (failsRaised_ok _) (.bind (appendBits_failsRaised _ _ _) fun _ => failsRaised_ok _)

theorem segmentClose_failsRaised (s : State) : FailsRaised (segmentClose s) := by
  unfold segmentClose
  cases flushWidth s.segMode s.pendN.toNat with
  | none => exact failsRaised_ok _
  | some w => exact .bind (appendBits_failsRaised _ _ _) fun _ => failsRaised_ok _

theorem putValue_failsRaised (mode : Mode) (v : Nat) (s : State) :
    FailsRaised (putValue mode v s) := by
  cases mode with
  | numeric =>
    exact .ite (.bind (appendBits_failsRaised _ _ _) fun _ => failsRaised_ok _) (failsRaised_ok _)
  | alphanumeric =>
    exact .ite (failsRaised_ok _) (.bind (appendBits_failsRaised _ _ _) fun _ => failsRaised_ok _)
  | byte => exact appendBits_failsRaised _ _ _
  | kanji => exact appendBits_failsRaised _ _ _

theorem putBody_failsRaised (c : BitVec 16) (s : State) : FailsRaised (putBody c s) := by
  refine .guard ?_
  cases charValue s.segMode c.toNat with
  | none => exact failsRaised_error (by simp [Raised])
  | some v =>
    exact .bind (putValue_failsRaised _ _ _) fun _ =>
      .ite (segmentClose_failsRaised _) (failsRaised_ok _)

theorem padLoop_failsRaised (rounds p : Nat) (s : State) : FailsRaised (padLoop rounds p s) := by
  induction rounds generalizing p s with
  | zero => exact failsRaised_ok _
  | succ rounds ih =>
    exact .ite (.bind (appendBits_failsRaised _ _ _) fun _ => ih _ _) (failsRaised_ok _)

theorem finishBody_failsRaised (s : State) : FailsRaised (finishBody s) :=
  .guard <| .bind (appendBits_failsRaised _ _ _) fun _ =>
    .bind (appendBits_failsRaised _ _ _) fun _ => .bind (padLoop_failsRaised _ _ _) fun _ => failsRaised_ok _

theorem eccBody_failsRaised (s : State) : FailsRaised (eccBody s) := .guard (failsRaised_ok _)

theorem placeBody_failsRaised (s : State) : FailsRaised (placeBody s) :=
  .guard <| .ite (failsRaised_error (by simp [Raised])) (failsRaised_ok _)

theorem penalty_failsRaised (side : Nat) (g : Grid) : FailsRaised (penalty side g) :=
  .ite (failsRaised_error (by simp [Raised]))
    (.ite (failsRaised_error (by simp [Raised])) (failsRaised_ok _))

theorem scoreMasks_failsRaised (ks : List Nat) (s : State) : FailsRaised (scoreMasks ks s) := by
  induction ks generalizing s with
  | nil => exact failsRaised_ok _
  | cons k ks ih =>
    unfold scoreMasks scoreMask
    have hpen := penalty_failsRaised s.size.toNat (applyMask k s.size.toNat s.matrix).mod
    cases hp : penalty s.size.toNat (applyMask k s.size.toNat s.matrix).mod with
    | error c =>
      simp only [hp]
      exact failsRaised_error (hpen c hp)
    | ok p =>
      simp only [hp]
      exact ih _

theorem maskBody_failsRaised (s : State) : FailsRaised (maskBody s) := by
  refine .guard ?_
  unfold chooseMask
  by_cases hauto : s.maskAuto = true
  · rw [if_pos hauto]
    have hscore := scoreMasks_failsRaised (List.range 8) s
    cases hk : scoreMasks (List.range 8) s with
    | error c => exact failsRaised_error (hscore c hk)
    | ok u => exact failsRaised_ok _
  · rw [if_neg hauto]
    exact failsRaised_ok _

theorem configBody_failsRaised (f : BitVec 2) (auto : Bool) (id : BitVec 3) (e : Level)
    (v : BitVec 6) (s : State) : FailsRaised (configBody f auto id e v s) := by
  refine .guard (.guard ?_)
  cases fnc1OfCode f with
  | none => exact failsRaised_invalid
  | some f => exact failsRaised_ok _

theorem commandBody_failsRaised {i : Instr} {body : State → Except ErrCode State}
    (h : commandBody i = some body) (s : State) : FailsRaised (body s) := by
  cases i <;> cases h
  case config => exact configBody_failsRaised _ _ _ _ _ s
  case appendBits => exact .guard (appendBits_failsRaised _ _ _)
  case saHeader =>
    exact .guard <| .guard <| .guard <| .bind (appendBits_failsRaised _ _ _) fun _ =>
      .bind (appendBits_failsRaised _ _ _) fun _ => .bind (appendBits_failsRaised _ _ _) fun _ =>
        .bind (appendBits_failsRaised _ _ _) fun _ => failsRaised_ok _
  case eci =>
    exact .guard <| .guard <| .bind (appendBits_failsRaised _ _ _) fun _ =>
      appendBits_failsRaised _ _ _
  case segBegin =>
    exact .guard <| .guard <| .bind (appendBits_failsRaised _ _ _) fun _ =>
      .bind (emitFnc1_failsRaised _) fun _ => .bind (appendBits_failsRaised _ _ _) fun _ =>
        failsRaised_ok _
  case put c => exact putBody_failsRaised c s
  case finish => exact finishBody_failsRaised s
  case ecc => exact eccBody_failsRaised s
  case place => exact placeBody_failsRaised s
  case mask => exact maskBody_failsRaised s
  case run =>
    exact .bind (finishBody_failsRaised s) fun _ => .bind (eccBody_failsRaised _) fun _ =>
      .bind (placeBody_failsRaised _) fun _ => maskBody_failsRaised _

/-! ### The SOFT_RESET word -/

theorem unlessReserved_ok {n : Nat} {r : BitVec n} {i j : Instr}
    (h : unlessReserved r i = .ok j) : j = i := by
  unfold unlessReserved at h
  split at h <;> cases h
  rfl

/-- Only the words of opcode 0x01 decode to SOFT_RESET, and no bit of them is lost. -/
theorem eq_encode_of_decode_softReset {w : Word} {a : BitVec 24}
    (h : decode w = .ok (.softReset a)) : w = encode (.softReset a) := by
  unfold decode at h
  split at h
  case h_2 hop =>
    cases h
    refine BitVec.eq_of_toNat_eq ?_
    rw [(Laws.CommandWord.softReset _).1]
    simp only [opcodeOf, BitVec.extractLsb'_toNat, Nat.shiftRight_eq_div_pow] at hop
    simp only [Instr.opcode, Instr.operandField, BitVec.extractLsb'_toNat, BitVec.toNat_ofNat,
      Nat.shiftRight_zero]
    omega
  case h_1 | h_14 => cases h
  all_goals cases unlessReserved_ok h

theorem decode_encode_softReset (a : BitVec 24) :
    decode (encode (.softReset a)) = .ok (.softReset a) := by
  have hword := (Laws.CommandWord.softReset a).1
  have ha := a.isLt
  simp only [Instr.opcode, Instr.operandField, BitVec.toNat_ofNat] at hword
  have hop : (opcodeOf (encode (.softReset a))).toNat = 1 := by
    simp only [opcodeOf, BitVec.extractLsb'_toNat, Nat.shiftRight_eq_div_pow, hword]
    omega
  have hfield : (encode (.softReset a)).extractLsb' 0 24 = a := by
    refine BitVec.eq_of_toNat_eq ?_
    simp only [BitVec.extractLsb'_toNat, hword, Nat.shiftRight_zero]
    omega
  unfold decode
  rw [hop]
  exact congrArg (fun x => Except.ok (Instr.softReset x)) hfield

/-! ### What a step has done -/

/-- A command write as the oldest event. -/
abbrev Commanded (s : State) (w : Word) (rest : List HostEvent) : Prop :=
  s.pending = .write 0x004 4 w :: rest

/-- The oldest event is a reset: `rst`, or a write of a SOFT_RESET word to `CMD`. -/
def ResetPending (s : State) : Prop :=
  (∃ rest, s.pending = .rst :: rest) ∨
    ∃ a rest, s.pending = .write 0x004 4 (encode (.softReset a)) :: rest

/-- Everything a step that answers `t` can have done: nothing but to the host's side of the bus and
the registers the host writes, a reset, a command's body, or error entry. -/
inductive StepEffect (s t : State) : Prop
  | host (p : List HostEvent) (d : Option Word) (a : Word) (x y : BitVec 8) (i : BitVec 12)
      (h : t = { s with pending := p, readData := d, arg := a, modX := x, modY := y, cwIdx := i })
  | reset (rest : List HostEvent) (hp : ResetPending s)
      (h : t = resetElements { s with pending := rest })
  | body (w : Word) (rest : List HostEvent) (hp : Commanded s w rest) (i : Instr)
      (b : State → Except ErrCode State) (hb : commandBody i = some b) (hs : s.phase ≠ .error)
      (h : b { s with pending := rest } = .ok t)
  | error (w : Word) (rest : List HostEvent) (hp : Commanded s w rest) (c : ErrCode) (op : Byte)
      (hc : Raised c) (hs : s.phase ≠ .error) (h : t = errorEntry c op { s with pending := rest })

theorem registerAt_cmd {off : Nat} (h : registerAt off = some .cmd) : off = 0x004 := by
  unfold registerAt at h
  split at h
  case h_2 => rfl
  all_goals cases h

/-- Everything a bus write can do: run a command at `CMD`, write one of the host's registers, or
nothing. -/
theorem busWrite_cases (off width : Nat) (v : Word) (s : State) :
    (off = 0x004 ∧ width = 4 ∧ busWrite off width v s = commandStep v s) ∨
    ∃ a x y i, busWrite off width v s =
      .next { s with arg := a, modX := x, modY := y, cwIdx := i } := by
  unfold busWrite
  by_cases hadm : admitted off width = true
  · rw [if_pos hadm]
    obtain ⟨hwidth, -⟩ : width = 4 ∧ off % 4 = 0 := by simpa [admitted] using hadm
    cases hr : registerAt off with
    | none => exact .inr ⟨_, _, _, _, rfl⟩
    | some r =>
      cases r with
      | cmd => exact .inl ⟨registerAt_cmd hr, hwidth, rfl⟩
      | _ => exact .inr ⟨_, _, _, _, rfl⟩
  · rw [if_neg hadm]
    exact .inr ⟨_, _, _, _, rfl⟩

theorem commandStep_effect {s t : State} {w : Word} {rest : List HostEvent} (hp : Commanded s w rest)
    (h : commandStep w { s with pending := rest } = .next t) : StepEffect s t := by
  rcases commandStep_cases w { s with pending := rest } with ⟨i, hi, he⟩ | ⟨-, -, -, he⟩ |
    ⟨-, -, hs, he⟩ <;> rw [he] at h
  · rcases exec_cases i { s with pending := rest } with ⟨he, -⟩ | ⟨⟨a, rfl⟩, he⟩ |
      ⟨b, u, hb, hs, hok, he⟩ | ⟨b, c, hb, hs, herr, he⟩ <;> rw [he] at h <;> cases h
    · exact .host rest s.readData s.arg s.modX s.modY s.cwIdx rfl
    · rw [Commanded, eq_encode_of_decode_softReset hi] at hp
      exact .reset rest (.inr ⟨a, rest, hp⟩) rfl
    · exact .body w rest hp i b hb hs hok
    · exact .error w rest hp c _ (commandBody_failsRaised hb _ c herr) hs rfl
  · cases h
    exact .host rest s.readData s.arg s.modX s.modY s.cwIdx rfl
  · cases h
    exact .error w rest hp _ _ (by simp [Raised]) hs rfl

theorem step_effect {s t : State} (h : step s = .next t) : StepEffect s t := by
  rcases step_cases s with ⟨-, he⟩ | ⟨_, _, rest, -, -, he⟩ | ⟨off, width, v, rest, hp, -, he⟩ |
    ⟨rest, hp, he⟩ | ⟨_, _, -, he, -⟩ <;> rw [he] at h
  · cases h
    exact .host s.pending s.readData s.arg s.modX s.modY s.cwIdx rfl
  · cases h
    exact .host rest _ s.arg s.modX s.modY s.cwIdx rfl
  · rcases busWrite_cases off width v { s with pending := rest } with ⟨rfl, rfl, hw⟩ |
      ⟨a, x, y, i, hw⟩ <;> rw [hw] at h
    · exact commandStep_effect hp h
    · cases h
      exact .host rest s.readData a x y i rfl
  · cases h
    exact .reset rest (.inl ⟨rest, hp⟩) rfl
  · cases h

theorem step_of_resetPending {s t : State} (hp : ResetPending s) (h : step s = .next t) :
    ∃ rest, t = resetElements { s with pending := rest } := by
  rcases hp with ⟨rest, hp⟩ | ⟨a, rest, hp⟩
  · rw [step_of_pending hp] at h
    cases h
    exact ⟨rest, rfl⟩
  · rw [step_of_pending_cmd hp, commandStep_of_decode_ok (decode_encode_softReset a)] at h
    cases h
    exact ⟨rest, rfl⟩

/-- RUN is four commands one after another, so what they keep it keeps (R140). -/
theorem runBody_keeps {P : State → Prop}
    (hbody : ∀ i b s t, commandBody i = some b → i ≠ .run → b s = .ok t → P s → P t)
    {s t : State} (h : runBody s = .ok t) (hs : P s) : P t := by
  obtain ⟨a, b, c, ha, hb, hc, hd⟩ := runBody_ok h
  have hPa := hbody .finish _ s a rfl (by simp) ha hs
  have hPb := hbody .ecc _ a b rfl (by simp) hb hPa
  have hPc := hbody .place _ b c rfl (by simp) hc hPb
  exact hbody .mask _ c t rfl (by simp) hd hPc

/-- An invariant over steps, packaged once: it does not speak of the host's side of the bus, reset
meets it, and error entry and the bodies that succeed keep it, RUN's from its four commands'. -/
theorem step_keeps {P : State → Prop}
    (hhost : ∀ s p d a x y i, P s →
      P { s with pending := p, readData := d, arg := a, modX := x, modY := y, cwIdx := i })
    (hreset : ∀ s, P (resetElements s))
    (hbody : ∀ i b s t, commandBody i = some b → i ≠ .run → b s = .ok t → P s → P t)
    (herror : ∀ s c op, Raised c → s.phase ≠ .error → P s → P (errorEntry c op s))
    {s t : State} (hs : P s) (h : step s = .next t) : P t := by
  have hrest (rest : List HostEvent) : P { s with pending := rest } :=
    hhost s rest s.readData s.arg s.modX s.modY s.cwIdx hs
  cases step_effect h with
  | host p d a x y i h => exact h ▸ hhost s p d a x y i hs
  | reset rest _ h => exact h ▸ hreset _
  | body _ rest _ i b hb _ h =>
    by_cases hi : i = .run
    · subst hi
      cases hb
      exact runBody_keeps hbody h (hrest rest)
    · exact hbody i b { s with pending := rest } t hb hi h (hrest rest)
  | error _ rest _ c op hc hphase h =>
    exact h ▸ herror { s with pending := rest } c op hc hphase (hrest rest)

end Sys2Proof.Machine
end

section
/-! PROOFS. What every command leaves unchanged, and where it takes the phase: no command but CONFIG
writes the configuration (spec/10_state.md R34), none but SOFT_RESET a register of the host's (R39,
R51), and the phase moves as R33 lists. -/

namespace Sys2Proof.Machine

open Sys2Proof.Claims

/-! ### The frame of a body -/

/-- The state with everything a body other than CONFIG's may write put to one value: what is left is
the configuration, the geometry, the error fields, the host's registers and its side of the bus. -/
def withoutWork (s : State) : State :=
  { s with
    phase := .idle
    bitBuf := []
    bitLen := 0
    segOpen := false
    segMode := .numeric
    remain := 0
    pendN := 0
    pendVal := 0
    fnc1Done := false
    saDone := false
    dataSeen := false
    dataCw := []
    stream := []
    matrix := Matrix.blank
    pen := Vector.replicate 8 0
    penValid := 0
    chosen := 0
    resultValid := false
    dark := 0 }

/-- A field the frame does not blank is kept. -/
theorem kept {α : Type} {s t : State} (f : State → α)
    (h : withoutWork t = withoutWork s) (hf : ∀ s, f (withoutWork s) = f s := by exact fun _ => rfl) :
    f t = f s := by
  rw [← hf t, h, hf s]

theorem Grown.withoutWork {s t : State} (h : Grown s t) : withoutWork t = withoutWork s := by
  obtain ⟨_, -, rfl⟩ := h
  rfl

theorem finishBody_withoutWork {s t : State} (h : finishBody s = .ok t) :
    withoutWork t = withoutWork s := by
  obtain ⟨-, -, u, hu, -, rfl⟩ := finishBody_ok h
  exact hu.withoutWork

theorem eccBody_withoutWork {s t : State} (h : eccBody s = .ok t) :
    withoutWork t = withoutWork s := by
  obtain ⟨-, rfl⟩ := eccBody_ok h
  rfl

theorem placeBody_withoutWork {s t : State} (h : placeBody s = .ok t) :
    withoutWork t = withoutWork s := by
  obtain ⟨-, -, rfl⟩ := placeBody_ok h
  rfl

theorem maskBody_withoutWork {s t : State} (h : maskBody s = .ok t) :
    withoutWork t = withoutWork s := by
  obtain ⟨-, pen, m, k, dark, -, -, rfl⟩ := maskBody_ok h
  rfl

/-- A body that succeeds is CONFIG's, in IDLE, or keeps everything outside the work it does. -/
theorem body_frame {i : Instr} {b : State → Except ErrCode State} {s t : State}
    (hb : commandBody i = some b) (h : b s = .ok t) :
    (s.phase = .idle ∧ ∃ f auto id e v, t = latchConfig f auto id e v s) ∨
      withoutWork t = withoutWork s := by
  cases i <;> cases hb
  case config =>
    obtain ⟨hphase, -, -, f, rfl⟩ := configBody_ok h
    exact .inl ⟨hphase, f, _, _, _, _, rfl⟩
  all_goals refine .inr ?_
  case appendBits => exact (appendBitsBody_ok h).2.withoutWork
  case saHeader =>
    obtain ⟨-, u, hu, rfl⟩ := saHeaderBody_ok h
    exact hu.withoutWork
  case eci => exact (eciBody_ok h).2.withoutWork
  case segBegin =>
    obtain ⟨-, u, _, hu, rfl, -⟩ := segBeginBody_ok h
    exact hu.withoutWork
  case put =>
    obtain ⟨-, -, u, _, _, hu, rfl, -⟩ := putBody_ok h
    exact hu.withoutWork
  case finish => exact finishBody_withoutWork h
  case ecc => exact eccBody_withoutWork h
  case place => exact placeBody_withoutWork h
  case mask => exact maskBody_withoutWork h
  case run =>
    obtain ⟨a, b, c, ha, hb, hc, hd⟩ := runBody_ok h
    exact (maskBody_withoutWork hd).trans <| (placeBody_withoutWork hc).trans <|
      (eccBody_withoutWork hb).trans (finishBody_withoutWork ha)

theorem sameConfig_refl (s : State) : SameConfig s s :=
  ⟨rfl, rfl, rfl, rfl, rfl, rfl, rfl, rfl, rfl, rfl, rfl, rfl⟩

theorem sameConfig_of_withoutWork {s t : State} (h : withoutWork t = withoutWork s) :
    SameConfig s t :=
  ⟨kept State.version h, kept State.ecl h, kept State.maskId h,
    kept State.maskAuto h, kept State.fnc1 h, kept State.size h,
    kept State.bucket h, kept State.rawBits h, kept State.raw h,
    kept State.blocks h, kept State.eccLen h, kept State.data h⟩

/-- The host's registers, its side of the bus and the error fields stay through every body. -/
theorem body_keeps_host {i : Instr} {b : State → Except ErrCode State} {s t : State}
    (hb : commandBody i = some b) (h : b s = .ok t) :
    t.pending = s.pending ∧ t.readData = s.readData ∧ t.arg = s.arg ∧ t.modX = s.modX ∧
      t.modY = s.modY ∧ t.cwIdx = s.cwIdx := by
  rcases body_frame hb h with ⟨-, f, auto, id, e, v, rfl⟩ | hw
  · exact ⟨rfl, rfl, rfl, rfl, rfl, rfl⟩
  · exact ⟨kept State.pending hw, kept State.readData hw, kept State.arg hw,
      kept State.modX hw, kept State.modY hw, kept State.cwIdx hw⟩

/-- Settles O18: of the effects of a step (`StepEffect`) only a reset and CONFIG's body write the
configuration, and CONFIG's body succeeds in IDLE only. -/
theorem configurationIsFixedUntilReset : Obligations.ConfigurationIsFixedUntilReset := by
  intro s t hphase h
  cases step_effect h with
  | host p d a x y i h =>
    subst h
    exact .inr (.inr (sameConfig_refl s))
  | reset rest hp _ => exact hp.imp_right .inl
  | body w rest hp i b hb _ h =>
    rcases body_frame hb h with ⟨hidle, -⟩ | hw
    · exact absurd hidle hphase
    · exact .inr (.inr (sameConfig_of_withoutWork (s := { s with pending := rest }) hw))
  | error w rest hp c op _ _ h =>
    subst h
    exact .inr (.inr (sameConfig_refl s))

/-- Settles O19: by the frame of every body; SOFT_RESET is the one command outside it. -/
theorem commandsLeaveHostWrittenRegisters : Obligations.CommandsLeaveHostWrittenRegisters := by
  intro i s t h
  rcases exec_cases i s with ⟨he, -⟩ | ⟨⟨a, rfl⟩, he⟩ | ⟨b, u, hb, -, hok, he⟩ |
    ⟨b, c, -, -, -, he⟩ <;> rw [he] at h <;> cases h
  · exact ⟨rfl, rfl, fun _ => ⟨rfl, rfl, rfl, rfl⟩⟩
  · exact ⟨rfl, rfl, fun hne => absurd rfl (hne a)⟩
  · obtain ⟨hpending, hread, hregs⟩ := body_keeps_host hb hok
    exact ⟨hpending, hread, fun _ => hregs⟩
  · exact ⟨rfl, rfl, fun _ => ⟨rfl, rfl, rfl, rfl⟩⟩

/-! ### The phase -/

theorem Grown.phase {s t : State} (h : Grown s t) : t.phase = s.phase := by
  obtain ⟨_, -, rfl⟩ := h
  rfl

/-- A body succeeds in its command's legal phase only, and leads to the listed phase (R33). -/
theorem body_phase {i : Instr} {b : State → Except ErrCode State} {s t : State}
    (hb : commandBody i = some b) (h : b s = .ok t) :
    legalPhase i = some s.phase ∧ phaseAfter i = some t.phase := by
  cases i <;> cases hb <;> simp only [legalPhase, phaseAfter, Option.some.injEq]
  case config =>
    obtain ⟨hphase, -, -, f, rfl⟩ := configBody_ok h
    exact ⟨hphase.symm, rfl⟩
  case appendBits =>
    obtain ⟨hphase, hu⟩ := appendBitsBody_ok h
    exact ⟨hphase.symm, (hu.phase.trans hphase).symm⟩
  case saHeader =>
    obtain ⟨hphase, u, hu, rfl⟩ := saHeaderBody_ok h
    exact ⟨hphase.symm, (hu.phase.trans hphase).symm⟩
  case eci =>
    obtain ⟨hphase, hu⟩ := eciBody_ok h
    exact ⟨hphase.symm, (hu.phase.trans hphase).symm⟩
  case segBegin =>
    obtain ⟨hphase, u, _, hu, rfl, -⟩ := segBeginBody_ok h
    exact ⟨hphase.symm, (hu.phase.trans hphase).symm⟩
  case put =>
    obtain ⟨hphase, -, u, _, _, hu, rfl, -⟩ := putBody_ok h
    exact ⟨hphase.symm, (hu.phase.trans hphase).symm⟩
  case finish =>
    obtain ⟨hphase, -, u, -, -, rfl⟩ := finishBody_ok h
    exact ⟨hphase.symm, rfl⟩
  case ecc =>
    obtain ⟨hphase, rfl⟩ := eccBody_ok h
    exact ⟨hphase.symm, rfl⟩
  case place =>
    obtain ⟨hphase, -, rfl⟩ := placeBody_ok h
    exact ⟨hphase.symm, rfl⟩
  case mask =>
    obtain ⟨hphase, _, _, _, _, -, -, rfl⟩ := maskBody_ok h
    exact ⟨hphase.symm, rfl⟩
  case run =>
    obtain ⟨a, b, c, ha, -, -, hd⟩ := runBody_ok h
    obtain ⟨hphase, -⟩ := finishBody_ok ha
    obtain ⟨-, _, _, _, _, -, -, rfl⟩ := maskBody_ok hd
    exact ⟨hphase.symm, rfl⟩

theorem betweenSegments_of_phase {s : State} (h : .framing ≠ s.phase) :
    (!betweenSegments s) = true := by
  simp [betweenSegments, h.symm]

/-- Every body looks at the phase first (R321, R326). -/
theorem body_wrong_phase {i : Instr} {b : State → Except ErrCode State} {s : State} {p : Phase}
    (hb : commandBody i = some b) (hp : legalPhase i = some p) (hne : p ≠ s.phase) :
    b s = .error .invalidArgument := by
  cases i <;> cases hb <;> cases hp
  case config => exact if_pos hne.symm
  case put => exact if_pos (.inl hne.symm)
  case ecc => exact if_pos hne.symm
  case place => exact if_pos hne.symm
  case mask => exact if_pos hne.symm
  case run => exact bind_error.2 (.inl (if_pos (betweenSegments_of_phase hne)))
  all_goals exact if_pos (betweenSegments_of_phase hne)

/-- A command that answers a next state moves the phase as listed, or fails. -/
theorem exec_phase {i : Instr} {s t : State} (h : exec i s = .next t) :
    t.phase = s.phase ∧ ((∃ a, i = .nop a) ∨ s.phase = .error) ∨
    (∃ a, i = .softReset a) ∧ t.phase = .idle ∨
    legalPhase i = some s.phase ∧ phaseAfter i = some t.phase ∨
    s.phase ≠ .error ∧ t.phase = .error ∧ t.err ≠ .noError := by
  rcases exec_cases i s with ⟨he, hwhy⟩ | ⟨hi, he⟩ | ⟨b, u, hb, -, hok, he⟩ |
    ⟨b, c, hb, hs, herr, he⟩ <;> rw [he] at h <;> cases h
  · exact .inl ⟨rfl, hwhy⟩
  · exact .inr (.inl ⟨hi, rfl⟩)
  · exact .inr (.inr (.inl (body_phase hb hok)))
  · exact .inr (.inr (.inr ⟨hs, rfl, (commandBody_failsRaised hb s c herr).1⟩))

theorem exec_wrong_phase {i : Instr} {s : State} {p : Phase} (hs : s.phase ≠ .error)
    (hp : legalPhase i = some p) (hne : p ≠ s.phase) :
    exec i s = .next (errorEntry .invalidArgument i.opcode s) := by
  cases hb : commandBody i with
  | none => cases i <;> cases hb <;> cases hp
  | some b =>
    rw [exec_eq_command hb]
    exact command_error hs (body_wrong_phase hb hp hne)

theorem commandStep_undecoded_phase {w : Word} {e : DecodeError} {s t : State}
    (he : decode w = .error e) (h : commandStep w s = .next t) : t.phase = .error := by
  rw [commandStep_of_decode_error he] at h
  by_cases hs : s.phase = .error
  · rw [command_in_error hs] at h
    cases h
    exact hs
  · rw [command_error hs rfl] at h
    cases h
    rfl

/-- A step on another event than a write of `CMD` or a reset leaves the phase. -/
theorem step_keeps_phase {s t : State} (h : step s = .next t)
    (hcmd : ∀ w rest, ¬Commanded s w rest) (hreset : ¬ResetPending s) : t.phase = s.phase := by
  cases step_effect h with
  | host p d a x y i h => exact h ▸ rfl
  | reset rest hp _ => exact absurd hp hreset
  | body w rest hp i b _ _ _ => exact absurd hp (hcmd w rest)
  | error w rest hp c op _ _ _ => exact absurd hp (hcmd w rest)

/-- Settles O22: the phases of every body, and the effects of a step. -/
theorem phaseMovesOnlyAsListed : Obligations.PhaseMovesOnlyAsListed := by
  refine ⟨fun i s t => exec_phase, fun i s hs ⟨p, hp, hne⟩ => exec_wrong_phase hs hp hne,
    fun w e s t => commandStep_undecoded_phase, fun s t rest h => ⟨fun hp => ?_, ?_, ?_⟩⟩
  · obtain ⟨rest, rfl⟩ := step_of_resetPending (.inl ⟨rest, hp⟩) h
    rfl
  · intro off width hp
    exact step_keeps_phase h (by simp [Commanded, hp]) (by simp [ResetPending, hp])
  · intro off width v hoff hp
    exact step_keeps_phase h (by simp [Commanded, hp, hoff]) (by simp [ResetPending, hp, hoff])

end Sys2Proof.Machine
end

section
/-! PROOFS. The register window (spec/10_state.md R58 to R74): a register's word as the sum of its
fields. -/

namespace Sys2Proof.Machine

open Sys2Proof.Laws

/-- A register above its reserved bits, which read 0. -/
theorem zero_append_toNat {m n : Nat} (x : BitVec n) : (0#m ++ x).toNat = x.toNat := by
  simp

theorem ofBool_toNat (b : Bool) : (BitVec.ofBool b).toNat = b.toNat := by
  cases b <;> rfl

theorem statusWord_toNat (s : State) :
    (statusWord s).toNat = s.phase.code.toNat + 2 ^ 3 * s.segOpen.toNat +
      2 ^ 4 * s.err.code.toNat + 2 ^ 8 * s.errOp.toNat + 2 ^ 16 * s.fnc1Done.toNat +
      2 ^ 17 * s.saDone.toNat + 2 ^ 18 * s.dataSeen.toNat := by
  unfold statusWord
  rw [append_toNat _ s.phase.code, append_toNat _ (BitVec.ofBool s.segOpen),
    append_toNat _ s.err.code, append_toNat _ s.errOp, append_toNat _ (BitVec.ofBool s.fnc1Done),
    append_toNat _ (BitVec.ofBool s.saDone), zero_append_toNat]
  simp only [ofBool_toNat]
  omega

theorem cfgWord_toNat (s : State) :
    (cfgWord s).toNat = s.version.toNat + 2 ^ 6 * s.ecl.code.toNat + 2 ^ 8 * s.maskId.toNat +
      2 ^ 11 * s.maskAuto.toNat + 2 ^ 12 * s.fnc1.code.toNat := by
  unfold cfgWord
  rw [append_toNat _ s.version, append_toNat _ s.ecl.code, append_toNat _ s.maskId,
    append_toNat _ (BitVec.ofBool s.maskAuto), zero_append_toNat, ofBool_toNat]
  omega

theorem geom0Word_toNat (s : State) :
    (geom0Word s).toNat = s.size.toNat + 2 ^ 8 * s.blocks.toNat + 2 ^ 16 * s.eccLen.toNat +
      2 ^ 24 * s.bucket.toNat := by
  unfold geom0Word
  rw [append_toNat _ s.size, append_toNat _ s.blocks, append_toNat _ s.eccLen, zero_append_toNat]
  omega

theorem geom1Word_toNat (s : State) :
    (geom1Word s).toNat = s.raw.toNat + 2 ^ 16 * s.data.toNat := by
  unfold geom1Word
  rw [append_toNat _ s.raw, append_toNat _ 0#4, zero_append_toNat, BitVec.toNat_ofNat]
  omega

theorem segWord_toNat (s : State) :
    (segWord s).toNat = s.segMode.code.toNat + 2 ^ 2 * s.pendN.toNat + 2 ^ 4 * s.pendVal.toNat +
      2 ^ 16 * s.remain.toNat := by
  unfold segWord
  rw [append_toNat _ s.segMode.code, append_toNat _ s.pendN, append_toNat _ s.pendVal,
    append_toNat _ 0#2, BitVec.toNat_ofNat]
  omega

theorem resultWord_toNat (s : State) :
    (resultWord s).toNat = s.chosen.toNat + 2 ^ 3 * s.resultValid.toNat +
      2 ^ 8 * s.penValid.toNat := by
  unfold resultWord
  rw [append_toNat _ s.chosen, append_toNat _ (BitVec.ofBool s.resultValid), append_toNat _ 0#4,
    zero_append_toNat, ofBool_toNat, BitVec.toNat_ofNat]
  omega

theorem modAddrWord_toNat (s : State) :
    (modAddrWord s).toNat = s.modX.toNat + 2 ^ 8 * s.modY.toNat := by
  unfold modAddrWord
  rw [append_toNat _ s.modX, zero_append_toNat]
  omega

/-- No register is at a reserved offset (R58). -/
theorem registerAt_reserved {off : Nat}
    (h : (0x030 ≤ off ∧ off ≤ 0x03C) ∨ (0x070 ≤ off ∧ off ≤ 0xFFC)) : registerAt off = none := by
  unfold registerAt
  split
  case h_25 => rfl
  all_goals omega

theorem busRead_pen (s : State) (k : Fin 8) :
    busRead (0x040 + 4 * k.val) 4 s = s.pen[k.val] := by
  fin_cases k <;> rfl

theorem busRead_reserved {off : Nat} (s : State)
    (h : (0x030 ≤ off ∧ off ≤ 0x03C) ∨ (0x070 ≤ off ∧ off ≤ 0xFFC)) : busRead off 4 s = 0 := by
  unfold busRead
  rw [registerAt_reserved h, ite_self]

/-- Settles O7: each register's word is its fields, each times the place it begins at. -/
theorem registerReadsShowTheirFields : Obligations.RegisterReadsShowTheirFields :=
  ⟨fun s => ⟨rfl, rfl, rfl, statusWord_toNat s, cfgWord_toNat s, geom0Word_toNat s,
      geom1Word_toNat s, zero_append_toNat s.rawBits, zero_append_toNat s.bitLen, segWord_toNat s,
      resultWord_toNat s, zero_append_toNat s.dark, busRead_pen s, modAddrWord_toNat s,
      zero_append_toNat s.cwIdx⟩,
    fun s _ h => busRead_reserved s h⟩

end Sys2Proof.Machine
end

section
/-! PROOFS. The geometry of the 40 versions against the widths of its elements (spec/10_state.md R40
to R44, spec/42_rs_codec.md R222), and the length of the codeword stream (R225 to R228). -/

namespace Sys2Proof.Machine

/-! ### The geometry -/

/-- What the tables and formulas of a version and level stay within. -/
abbrev GeometryFits (e : Level) (v : Nat) : Prop :=
  0 < blockCount e v ∧ blockCount e v < 2 ^ 8 ∧ eccLength e v < 2 ^ 8 ∧
  blockCount e v * eccLength e v ≤ rawModules v / 8 ∧ dataCodewords e v ≤ Config.maxData ∧
  rawModules v / 8 ≤ Config.maxRaw

theorem geometryFits_table :
    ∀ v < 41, 1 ≤ v → ∀ e ∈ [Level.l, .m, .q, .h], GeometryFits e v := by
  decide +kernel

theorem geometryFits (e : Level) {v : Nat} (h₁ : 1 ≤ v) (h₂ : v ≤ 40) : GeometryFits e v := by
  exact geometryFits_table v (by omega) h₁ e (by cases e <;> decide)

/-- What CONFIG latches is the geometry of its version and level, no element cut off. -/
theorem latchConfig_configured (f : Fnc1) (auto : Bool) (id : BitVec 3) (e : Level) {v : BitVec 6}
    (s : State) (h₁ : 1 ≤ v.toNat) (h₂ : v.toNat ≤ 40) :
    Configured (latchConfig f auto id e v s) := by
  obtain ⟨-, hblocks, hecc, -, hdata, hraw⟩ := geometryFits e h₁ h₂
  have hbucket : versionBucket v.toNat < 4 := by
    unfold versionBucket
    split
    · decide
    · split <;> decide
  simp only [Config.maxData] at hdata
  simp only [Config.maxRaw] at hraw
  refine ⟨h₁, h₂, ?_, ?_, ?_, ?_, ?_, ?_, ?_⟩ <;>
    simp only [latchConfig_size, latchConfig_bucket, latchConfig_rawBits, latchConfig_raw,
      latchConfig_blocks, latchConfig_eccLen, latchConfig_data, latchConfig_version, latchConfig_ecl,
      BitVec.toNat_ofNat] <;> apply Nat.mod_eq_of_lt
  · unfold sideLength
    omega
  · exact hbucket
  · omega
  · omega
  · exact hblocks
  · exact hecc
  · omega

theorem ConfigOk.configured {s : State} {p : Phase} (h : ConfigOk s) (hp : s.phase = p)
    (hidle : p ≠ .idle := by decide) (herr : p ≠ .error := by decide) : Configured s := by
  obtain ⟨-, hconf, -⟩ := h
  exact hconf (hp ▸ hidle) (hp ▸ herr)

theorem Configured.size_le {s : State} (h : Configured s) : s.size.toNat ≤ Config.maxSide := by
  obtain ⟨-, hv, hsize, -⟩ := h
  rw [hsize, sideLength, Config.maxSide]
  omega

theorem Configured.fits {s : State} (h : Configured s) :
    0 < s.blocks.toNat ∧ s.blocks.toNat * s.eccLen.toNat ≤ s.raw.toNat ∧
      s.data.toNat = s.raw.toNat - s.blocks.toNat * s.eccLen.toNat ∧
      s.data.toNat ≤ Config.maxData ∧ s.raw.toNat ≤ Config.maxRaw := by
  obtain ⟨h₁, h₂, -, -, -, hraw, hblocks, hecc, hdata⟩ := h
  obtain ⟨hpos, -, -, hmul, hmax, hmaxRaw⟩ := geometryFits s.ecl h₁ h₂
  rw [hraw, hblocks, hecc, hdata]
  exact ⟨hpos, hmul, rfl, hmax, hmaxRaw⟩

/-! ### The length of the stream -/

/-- The first `k` blocks are one shorter than the others. -/
theorem sum_range_short (c k n : Nat) :
    ((List.range n).map fun b => c + if b < k then 0 else 1).sum = n * c + (n - k) := by
  induction n with
  | zero => simp
  | succ n ih =>
    rw [List.range_succ, List.map_append, List.sum_append, ih, Nat.succ_mul]
    simp only [List.map_cons, List.map_nil, List.sum_cons, List.sum_nil]
    split <;> omega

/-- The blocks hold what the stream has over the ECC codewords (R225). -/
theorem blockLengths_sum {blocks ecc raw : Nat} (hpos : 0 < blocks) (hfit : blocks * ecc ≤ raw) :
    (blockLengths blocks ecc raw).sum = raw - blocks * ecc := by
  have hdiv := Nat.div_add_mod raw blocks
  have hmod := Nat.mod_lt raw hpos
  have hecc : ecc ≤ raw / blocks := (Nat.le_div_iff_mul_le hpos).2 (by rwa [Nat.mul_comm])
  rw [blockLengths, sum_range_short, Nat.mul_sub]
  have := Nat.mul_le_mul_left blocks hecc
  omega

theorem blockLengths_le (blocks ecc raw : Nat) :
    ∀ n ∈ blockLengths blocks ecc raw, n ≤ raw / blocks - ecc + 1 := by
  intro n hn
  obtain ⟨b, -, rfl⟩ := List.mem_map.1 hn
  split <;> omega

theorem splitBlocks_lengths (ns : List Nat) (bytes : List Byte) (h : ns.sum ≤ bytes.length) :
    (splitBlocks ns bytes).map List.length = ns := by
  induction ns generalizing bytes with
  | nil => rfl
  | cons n ns ih =>
    rw [List.sum_cons] at h
    rw [splitBlocks, List.map_cons, ih _ (by rw [List.length_drop]; omega), List.length_take]
    congr 1
    omega

/-- A column of the ragged grid has one entry for each block that reaches it. -/
theorem column_length (i : Nat) (blocks : List (List Byte)) :
    (blocks.filterMap fun block => block[i]?).length =
      (blocks.map fun block => if i < block.length then 1 else 0).sum := by
  induction blocks with
  | nil => rfl
  | cons block blocks ih =>
    by_cases h : i < block.length
    · simp [h, ih, Nat.add_comm]
    · simp [h, ih]

theorem interleave_length (columns : Nat) (blocks : List (List Byte)) :
    (interleave columns blocks).length =
      (blocks.map fun block => min columns block.length).sum := by
  induction columns with
  | zero => simp [interleave]
  | succ n ih =>
    rw [interleave, List.range_succ, List.flatMap_append, List.length_append, ← interleave, ih,
      List.flatMap_singleton, column_length, ← List.sum_map_add]
    congr 2
    funext block
    split <;> omega

/-- With columns enough, interleaving loses no entry. -/
theorem interleave_length_of_le {columns : Nat} {blocks : List (List Byte)}
    (h : ∀ n ∈ blocks.map List.length, n ≤ columns) :
    (interleave columns blocks).length = (blocks.map List.length).sum := by
  rw [interleave_length]
  congr 1
  refine List.map_congr_left fun block hblock => ?_
  exact Nat.min_eq_right (h _ (List.mem_map_of_mem hblock))

theorem timesRoot_length (root : Byte) (g : List Byte) : (timesRoot root g).length = g.length := by
  cases g <;> simp [timesRoot]

theorem divisorLoop_length (rounds : Nat) (root : Byte) (g : List Byte) :
    (divisorLoop rounds root g).length = g.length := by
  induction rounds generalizing root g with
  | zero => rfl
  | succ rounds ih => rw [divisorLoop, ih, timesRoot_length]

@[simp] theorem rsDivisor_length (d : Nat) : (rsDivisor d).length = d := by
  cases d with
  | zero => rfl
  | succ d => simp [rsDivisor, divisorLoop_length]

theorem remainderStep_length {g r : List Byte} (b : Byte) (h : r.length = g.length) :
    (remainderStep g r b).length = g.length := by
  cases r with
  | nil => simp [remainderStep, ← h]
  | cons c r => simp [remainderStep, ← h]

@[simp] theorem rsRemainder_length (data g : List Byte) :
    (rsRemainder data g).length = g.length := by
  unfold rsRemainder
  generalize hr : List.replicate g.length 0#8 = r
  replace hr : r.length = g.length := by rw [← hr, List.length_replicate]
  induction data generalizing r with
  | nil => exact hr
  | cons b data ih => exact ih _ (remainderStep_length b hr)

/-- The stream has exactly the raw codewords (R228). -/
theorem codewordStream_length {blocks ecc raw : Nat} {data : List Byte} (hpos : 0 < blocks)
    (hfit : blocks * ecc ≤ raw) (hdata : data.length = raw - blocks * ecc) :
    (codewordStream blocks ecc raw data).length = raw := by
  have hsum := blockLengths_sum hpos hfit
  have hlengths := splitBlocks_lengths (blockLengths blocks ecc raw) data (by rw [hsum, hdata])
  have hcount : (splitBlocks (blockLengths blocks ecc raw) data).length = blocks := by
    rw [← List.length_map List.length, hlengths, blockLengths, List.length_map, List.length_range]
  have hecc : ((splitBlocks (blockLengths blocks ecc raw) data).map fun block =>
      rsRemainder block (rsDivisor ecc)).map List.length = List.replicate blocks ecc := by
    refine List.eq_replicate_iff.2 ⟨by simp [hcount], fun n hn => ?_⟩
    simp only [List.map_map, List.mem_map, Function.comp_apply, rsRemainder_length,
      rsDivisor_length] at hn
    obtain ⟨_, -, rfl⟩ := hn
    rfl
  simp only [codewordStream, List.length_append]
  rw [interleave_length_of_le (by rw [hlengths]; exact blockLengths_le blocks ecc raw), hlengths,
    hsum, interleave_length_of_le (by rw [hecc]; exact fun n hn => (List.eq_of_mem_replicate hn).le),
    hecc, List.sum_replicate, smul_eq_mul]
  omega

theorem Configured.codewordStream_length {s : State} (h : Configured s) (bytes : List Byte) :
    (codewordStream s.blocks.toNat s.eccLen.toNat s.raw.toNat
      (entries s.data.toNat bytes)).length = s.raw.toNat := by
  obtain ⟨hpos, hfit, hdata, -, -⟩ := h.fits
  exact Machine.codewordStream_length hpos hfit (by rw [entries_length, hdata])

end Sys2Proof.Machine
end

section
/-! PROOFS. The invariant of the machine (spec/10_state.md R31 to R52): reset meets it, and error
entry and every body that succeeds keep it. -/

namespace Sys2Proof.Machine

open Sys2Proof.Claims

/-! ### Reset and error entry -/

theorem inv_reset : Inv State.reset :=
  ⟨⟨fun _ => by decide, fun hne => absurd rfl hne, .inl (by decide), by decide⟩, by decide, by decide,
    by decide, by decide, by decide, by decide⟩

theorem inv_resetElements (s : State) : Inv (resetElements s) := inv_reset

/-- Settles O57: closed facts about the reset state; it is not in PLACED or DONE. -/
theorem resetMeetsTheInvariant : Obligations.ResetMeetsTheInvariant :=
  ⟨inv_reset, fun h => by simp [State.reset] at h⟩

theorem inv_errorEntry {s : State} {c : ErrCode} (op : Byte) (hc : Raised c) (h : Inv s) :
    Inv (errorEntry c op s) := by
  obtain ⟨⟨-, -, hconf, hauto⟩, hbuf, hseg, ⟨-, -, hfnc1, hseen⟩, -,
    ⟨-, -, hnone, hvalid, hpen, hfixed⟩, harr⟩ := h
  exact ⟨⟨nofun, fun _ hne => absurd rfl hne, hconf, hauto⟩, hbuf, hseg,
    ⟨fun _ => .inr rfl, nofun, hfnc1, hseen⟩,
    ⟨iff_of_true rfl hc.1, fun herr => absurd herr hc.1, hc.2⟩,
    ⟨nofun, fun _ => .inr rfl, hnone, hvalid, hpen, hfixed⟩, harr⟩

/-! ### Configuration and error fields -/

/-- A body that succeeds starts and ends in a working phase: it is no reset and no failure. -/
theorem body_phase_ne {i : Instr} {b : State → Except ErrCode State} {s t : State}
    (hb : commandBody i = some b) (h : b s = .ok t) :
    s.phase ≠ .error ∧ t.phase ≠ .idle ∧ t.phase ≠ .error := by
  obtain ⟨hbefore, hafter⟩ := body_phase hb h
  cases i <;> cases hb <;>
    simp only [legalPhase, phaseAfter, Option.some.injEq] at hbefore hafter <;>
    simp [← hbefore, ← hafter]

theorem body_configured {i : Instr} {b : State → Except ErrCode State} {s t : State}
    (hb : commandBody i = some b) (h : b s = .ok t) (hs : ConfigOk s) :
    Configured t ∧ (t.maskAuto = true → t.maskId = 0) := by
  obtain ⟨-, hconf, -, hauto⟩ := hs
  by_cases hidle : s.phase = .idle
  · have hlegal := (body_phase hb h).1
    rw [hidle] at hlegal
    cases i <;> cases hlegal
    cases hb
    obtain ⟨-, h₁, h₂, f, rfl⟩ := configBody_ok h
    exact ⟨latchConfig_configured f _ _ _ s h₁ h₂, fun h => if_pos h⟩
  · rcases body_frame hb h with ⟨hidle', -⟩ | hw
    · exact absurd hidle' hidle
    · have hconf : Configured (withoutWork s) := hconf hidle (body_phase_ne hb h).1
      have hauto : (withoutWork s).maskAuto = true → (withoutWork s).maskId = 0 := hauto
      rw [← hw] at hconf hauto
      exact ⟨hconf, hauto⟩

theorem body_configOk {i : Instr} {b : State → Except ErrCode State} {s t : State}
    (hb : commandBody i = some b) (h : b s = .ok t) (hs : ConfigOk s) : ConfigOk t := by
  obtain ⟨-, hidle, -⟩ := body_phase_ne hb h
  obtain ⟨hconf, hauto⟩ := body_configured hb h hs
  exact ⟨fun hp => absurd hp hidle, fun _ _ => hconf, .inr hconf, hauto⟩

theorem body_errorOk {i : Instr} {b : State → Except ErrCode State} {s t : State}
    (hb : commandBody i = some b) (h : b s = .ok t) (hs : ErrorOk s) : ErrorOk t := by
  obtain ⟨hiff, hop, hesc⟩ := hs
  obtain ⟨hphase, -, hphase'⟩ := body_phase_ne hb h
  obtain ⟨herr, herrOp⟩ : t.err = s.err ∧ t.errOp = s.errOp := by
    rcases body_frame hb h with ⟨-, f, auto, id, e, v, rfl⟩ | hw
    · exact ⟨rfl, rfl⟩
    · exact ⟨kept State.err hw, kept State.errOp hw⟩
  have hnone : s.err = .noError := by
    by_contra hne
    exact hphase (hiff.2 hne)
  rw [ErrorOk, herr, herrOp]
  exact ⟨iff_of_false hphase' (not_not.2 hnone), hop, hesc⟩

/-! ### The bit buffer -/

/-- RUN apart, a body keeps every bit of the buffer and adds bits within the capacity (R45, R160). -/
theorem body_buffer {i : Instr} {b : State → Except ErrCode State} {s t : State}
    (hb : commandBody i = some b) (hrun : i ≠ .run) (h : b s = .ok t) :
    s.bitBuf <+: t.bitBuf ∧ (ConfigOk s → BufferOk s → BufferOk t) := by
  cases i <;> cases hb
  case run => exact absurd rfl hrun
  case config =>
    obtain ⟨hidle, -, -, f, rfl⟩ := configBody_ok h
    refine ⟨List.prefix_rfl, fun hconf ⟨hlen, hcap⟩ => ⟨hlen, ?_⟩⟩
    obtain ⟨-, -, -, -, -, -, -, -, -, -, -, hdata⟩ := hconf.1 hidle
    have hzero : s.bitLen.toNat = 0 := by simpa [hdata] using hcap
    exact hzero.trans_le (Nat.zero_le _)
  case appendBits =>
    have hu := (appendBitsBody_ok h).2
    exact ⟨hu.keeps_bits, fun _ => hu.bufferOk⟩
  case saHeader =>
    obtain ⟨-, u, hu, rfl⟩ := saHeaderBody_ok h
    exact ⟨hu.keeps_bits, fun _ => hu.bufferOk⟩
  case eci =>
    have hu := (eciBody_ok h).2
    exact ⟨hu.keeps_bits, fun _ => hu.bufferOk⟩
  case segBegin =>
    obtain ⟨-, u, _, hu, rfl, -⟩ := segBeginBody_ok h
    exact ⟨hu.keeps_bits, fun _ => hu.bufferOk⟩
  case put =>
    obtain ⟨-, -, u, _, _, hu, rfl, -⟩ := putBody_ok h
    exact ⟨hu.keeps_bits, fun _ => hu.bufferOk⟩
  case finish =>
    obtain ⟨-, -, u, hu, -, rfl⟩ := finishBody_ok h
    exact ⟨hu.keeps_bits, fun _ => hu.bufferOk⟩
  case ecc =>
    obtain ⟨-, rfl⟩ := eccBody_ok h
    exact ⟨List.prefix_rfl, fun _ hs => hs⟩
  case place =>
    obtain ⟨-, -, rfl⟩ := placeBody_ok h
    exact ⟨List.prefix_rfl, fun _ hs => hs⟩
  case mask =>
    obtain ⟨-, _, _, _, _, -, -, rfl⟩ := maskBody_ok h
    exact ⟨List.prefix_rfl, fun _ hs => hs⟩

theorem body_keeps_bits {i : Instr} {b : State → Except ErrCode State} {s t : State}
    (hb : commandBody i = some b) (h : b s = .ok t) : s.bitBuf <+: t.bitBuf := by
  by_cases hrun : i = .run
  · subst hrun
    cases hb
    exact runBody_keeps (P := fun u => s.bitBuf <+: u.bitBuf)
      (fun i b u v hb hi h hu => hu.trans (body_buffer hb hi h).1) h List.prefix_rfl
  · exact (body_buffer hb hrun h).1

/-- Settles O27: over the effects of a step for the bits kept; with the configuration's invariant,
which gives the capacity CONFIG starts from, for the length. -/
theorem bitBufferOnlyGrowsUntilReset : Obligations.BitBufferOnlyGrowsUntilReset := by
  intro s t h
  refine ⟨fun hp => ?_, ?_, fun hconf hbuf => ?_⟩
  · obtain ⟨rest, rfl⟩ := step_of_resetPending hp h
    rfl
  · cases step_effect h with
    | host p d a x y i h =>
      subst h
      exact .inr (.inr List.prefix_rfl)
    | reset rest hp _ => exact hp.imp_right .inl
    | body w rest _ i b hb _ h =>
      exact .inr (.inr (body_keeps_bits (s := { s with pending := rest }) hb h))
    | error w rest _ c op _ _ h =>
      subst h
      exact .inr (.inr List.prefix_rfl)
  · refine (step_keeps (P := fun s => ConfigOk s ∧ BufferOk s) (fun _ _ _ _ _ _ _ h => h)
      (fun s => ⟨(inv_resetElements s).1, (inv_resetElements s).2.1⟩) ?_ ?_ ⟨hconf, hbuf⟩ h).2
    · exact fun i b s t hb hi h ⟨hconf, hbuf⟩ =>
        ⟨body_configOk hb h hconf, (body_buffer hb hi h).2 hconf hbuf⟩
    · exact fun s c op _ _ ⟨⟨_, _, hconf, hauto⟩, hbuf⟩ =>
        ⟨⟨nofun, fun _ hne => absurd rfl hne, hconf, hauto⟩, hbuf⟩

/-! ### Framing state, results and arrays -/

/-- The rest of the invariant: what a body says of its segment, phase, result and array elements. -/
abbrev WorkOk (s : State) : Prop := SegmentOk s ∧ PhaseOk s ∧ ResultOk s ∧ ArraysOk s

theorem overwrite_length (bytes l : List Byte) :
    (overwrite bytes l).length = max l.length bytes.length := by
  simp only [overwrite, List.length_append, List.length_drop]
  omega

/-- Before DONE no result is there. -/
theorem ResultOk.no_result {s : State} {p : Phase} (h : ResultOk s) (hp : s.phase = p)
    (hdone : p ≠ .done := by decide) (herr : p ≠ .error := by decide) : s.resultValid = false := by
  obtain ⟨-, hphase, -⟩ := h
  by_contra hvalid
  rcases hphase (by simpa using hvalid) with h | h
  · exact hdone (hp.symm.trans h)
  · exact herr (hp.symm.trans h)

/-- Without a result the phase may be any but DONE. -/
theorem ResultOk.of_phase {s : State} (p : Phase) (h : ResultOk s) (hvalid : s.resultValid = false)
    (hp : p ≠ .done) : ResultOk { s with phase := p } := by
  obtain ⟨-, -, hrest⟩ := h
  exact ⟨fun h => absurd h hp, fun h => by simp [hvalid] at h, hrest⟩

theorem Grown.workOk {s t : State} (hphase : s.phase = .framing) (h : WorkOk s) (hg : Grown s t) :
    WorkOk t := by
  obtain ⟨bits, -, rfl⟩ := hg
  obtain ⟨hseg, ⟨hopen, -, hfnc1, hseen⟩, hres, harr⟩ := h
  refine ⟨hseg, ⟨hopen, fun hafter => ?_, hfnc1, hseen⟩, hres, harr⟩
  have hafter : s.phase.afterFinish = true := hafter
  rw [hphase] at hafter
  cases hafter

theorem configBody_workOk {f : BitVec 2} {auto : Bool} {id : BitVec 3} {e : Level} {v : BitVec 6}
    {s t : State} (h : configBody f auto id e v s = .ok t) (hs : Inv s) : WorkOk t := by
  obtain ⟨⟨hunconf, -⟩, -, hseg, ⟨-, -, hfnc1, hseen⟩, -, hres, harr⟩ := hs
  obtain ⟨hidle, -, -, f, rfl⟩ := configBody_ok h
  obtain ⟨-, -, -, -, habsent, -⟩ := hunconf hidle
  have hnone := ResultOk.no_result hres hidle
  obtain ⟨-, -, hclear, -, hpen, -⟩ := hres
  exact ⟨hseg, ⟨fun _ => .inl rfl, nofun, fun hd => absurd habsent (hfnc1 hd).2, hseen⟩,
    ⟨nofun, fun h => by simp [hnone] at h, hclear, fun h => by simp [hnone] at h, hpen,
      fun h => by simp [hnone] at h⟩, harr⟩

theorem segBeginBody_workOk {count : BitVec 16} {mode : Mode} {s t : State}
    (h : segBeginBody count mode s = .ok t) (hs : WorkOk s) : WorkOk t := by
  obtain ⟨hphase, u, done, hu, rfl, hdone⟩ := segBeginBody_ok h
  have huphase := hu.phase.trans hphase
  obtain ⟨-, ⟨-, hfull, -, -⟩, hres, harr⟩ := hu.workOk hphase hs
  obtain ⟨-, ⟨-, -, hfnc1, -⟩, -, -⟩ := hs
  have hfnc1u : u.fnc1 = s.fnc1 := kept State.fnc1 hu.withoutWork
  refine ⟨⟨?_, heldOk_zero mode, fun _ => ⟨rfl, rfl⟩⟩,
    ⟨fun _ => .inl huphase, hfull, ?_, fun _ => rfl⟩, hres, harr⟩
  · rw [openSegment_segOpen, openSegment_remain, decide_eq_true_iff, ne_eq, ← BitVec.toNat_inj]
    exact Nat.pos_iff_ne_zero
  · intro hd
    refine ⟨rfl, ?_⟩
    show u.fnc1 ≠ .absent
    rw [hfnc1u]
    rcases hdone hd with hd | hset
    · exact (hfnc1 hd).2
    · exact hset

theorem putBody_workOk {c : BitVec 16} {s t : State} (h : putBody c s = .ok t) (hs : WorkOk s) :
    WorkOk t := by
  obtain ⟨hphase, hopen, u, n, held, hu, rfl, hlast, hheld⟩ := putBody_ok h
  have huphase := hu.phase.trans hphase
  obtain ⟨-, ⟨-, hfull, hfnc1, hseen⟩, hres, harr⟩ := hu.workOk hphase hs
  obtain ⟨⟨-, hok, -⟩, -, -, -⟩ := hs
  obtain ⟨hmode, huopen⟩ : u.segMode = s.segMode ∧ u.segOpen = s.segOpen := by
    obtain ⟨_, -, rfl⟩ := hu
    exact ⟨rfl, rfl⟩
  refine ⟨⟨decide_eq_true_iff, ?_, fun hclosed => ?_⟩,
    ⟨fun _ => .inl huphase, hfull, hfnc1, fun _ => hseen (huopen.trans hopen)⟩, hres, harr⟩
  · have := heldOk_hold (hheld hok)
    rwa [← hmode] at this
  · obtain ⟨rfl, rfl⟩ := hlast (not_not.1 (of_decide_eq_false hclosed))
    exact ⟨rfl, rfl⟩

theorem finishBody_workOk {s t : State} (h : finishBody s = .ok t) (hconf : ConfigOk s)
    (hs : WorkOk s) : WorkOk t := by
  obtain ⟨hphase, hopen, u, hu, hfull, rfl⟩ := finishBody_ok h
  obtain ⟨hseg, ⟨-, -, hfnc1, hseen⟩, hres, hcw, hstream⟩ := hu.workOk hphase hs
  have huphase := hu.phase.trans hphase
  obtain ⟨huopen, hdata, hdataCw⟩ :
      u.segOpen = s.segOpen ∧ u.data = s.data ∧ u.dataCw = s.dataCw := by
    obtain ⟨_, -, rfl⟩ := hu
    exact ⟨rfl, rfl, rfl⟩
  have hnone := ResultOk.no_result hres huphase
  obtain ⟨-, -, -, hmax, -⟩ := (hconf.configured hphase).fits
  refine ⟨hseg, ⟨fun ho => ?_, fun _ => ?_, hfnc1, hseen⟩,
    ResultOk.of_phase .padded hres hnone (by simp), ?_, hstream⟩
  · simp [huopen, hopen] at ho
  · rw [← hdata] at hfull
    exact hfull
  · rw [overwrite_length, packBytes_length, ← hdataCw]
    exact max_le hmax hcw

/-- In the phases after FINISH no segment is open and the buffer is full. -/
theorem PhaseOk.after {s : State} (h : PhaseOk s) (hphase : s.phase.afterFinish = true) :
    s.segOpen = false ∧ s.bitLen.toNat = 8 * s.data.toNat := by
  obtain ⟨hopen, hfull, -⟩ := h
  refine ⟨?_, hfull hphase⟩
  by_contra ho
  rcases hopen (by simpa using ho) with hp | hp <;> rw [hp] at hphase <;> cases hphase

theorem PhaseOk.of_after {s : State} (p : Phase) (h : PhaseOk s)
    (hphase : s.phase.afterFinish = true) : PhaseOk { s with phase := p } := by
  obtain ⟨hclosed, hfull⟩ := PhaseOk.after h hphase
  obtain ⟨-, -, hfnc1, hseen⟩ := h
  exact ⟨fun ho => by simp [hclosed] at ho, fun _ => hfull, hfnc1, hseen⟩

theorem eccBody_workOk {s t : State} (h : eccBody s = .ok t) (hconf : ConfigOk s) (hs : WorkOk s) :
    WorkOk t := by
  obtain ⟨hphase, rfl⟩ := eccBody_ok h
  obtain ⟨hseg, hph, hres, hcw, hstream⟩ := hs
  have hnone := ResultOk.no_result hres hphase
  have hconf := hconf.configured hphase
  obtain ⟨-, -, -, -, hmax⟩ := hconf.fits
  refine ⟨hseg, PhaseOk.of_after .interleaved hph (by rw [hphase]; rfl),
    ResultOk.of_phase .interleaved hres hnone (by simp), hcw, ?_⟩
  rw [overwrite_length, hconf.codewordStream_length]
  exact max_le hmax hstream

theorem placeBody_workOk {s t : State} (h : placeBody s = .ok t) (hs : WorkOk s) : WorkOk t := by
  obtain ⟨hphase, -, rfl⟩ := placeBody_ok h
  obtain ⟨hseg, hph, hres, harr⟩ := hs
  have hnone := ResultOk.no_result hres hphase
  exact ⟨hseg, PhaseOk.of_after .placed hph (by rw [hphase]; rfl),
    ResultOk.of_phase .placed hres hnone (by simp), harr⟩

theorem maskBody_workOk {s t : State} (h : maskBody s = .ok t) (hs : WorkOk s) : WorkOk t := by
  obtain ⟨hphase, pen, m, k, dark, -, hfixed, rfl⟩ := maskBody_ok h
  obtain ⟨hseg, hph, hres, harr⟩ := hs
  have hnone := ResultOk.no_result hres hphase
  obtain ⟨-, -, hclear, -, hpen, -⟩ := hres
  obtain ⟨hpenValid, -, -⟩ := hclear hnone
  refine ⟨hseg, PhaseOk.of_after .done hph (by rw [hphase]; rfl),
    ⟨fun _ => rfl, fun _ => .inl rfl, nofun, fun _ => ?_, fun hzero => ?_, fun _ hauto => ?_⟩, harr⟩
  · rw [hpenValid]
    rfl
  · by_cases hauto : s.maskAuto = true
    · simp [hauto] at hzero
    · exact (hfixed (by simpa using hauto)).1.trans (hpen hpenValid)
  · simp [(hfixed hauto).2]

theorem body_workOk {i : Instr} {b : State → Except ErrCode State} {s t : State}
    (hb : commandBody i = some b) (hrun : i ≠ .run) (h : b s = .ok t) (hs : Inv s) : WorkOk t := by
  obtain ⟨hconf, hbuf, hseg, hph, herr, hres, harr⟩ := hs
  have hwork : WorkOk s := ⟨hseg, hph, hres, harr⟩
  cases i <;> cases hb
  case run => exact absurd rfl hrun
  case config => exact configBody_workOk h ⟨hconf, hbuf, hseg, hph, herr, hres, harr⟩
  case appendBits =>
    obtain ⟨hphase, hu⟩ := appendBitsBody_ok h
    exact hu.workOk hphase hwork
  case saHeader =>
    obtain ⟨hphase, u, hu, rfl⟩ := saHeaderBody_ok h
    have hwork : WorkOk u := hu.workOk hphase hwork
    exact hwork
  case eci =>
    obtain ⟨hphase, hu⟩ := eciBody_ok h
    exact hu.workOk hphase hwork
  case segBegin => exact segBeginBody_workOk h hwork
  case put => exact putBody_workOk h hwork
  case finish => exact finishBody_workOk h hconf hwork
  case ecc => exact eccBody_workOk h hconf hwork
  case place => exact placeBody_workOk h hwork
  case mask => exact maskBody_workOk h hwork

theorem body_inv {i : Instr} {b : State → Except ErrCode State} {s t : State}
    (hb : commandBody i = some b) (hrun : i ≠ .run) (h : b s = .ok t) (hs : Inv s) : Inv t := by
  obtain ⟨hseg, hphase, hres, harr⟩ := body_workOk hb hrun h hs
  obtain ⟨hconf, hbuf, -, -, herr, -, -⟩ := hs
  exact ⟨body_configOk hb h hconf, (body_buffer hb hrun h).2 hconf hbuf, hseg, hphase,
    body_errorOk hb h herr, hres, harr⟩

/-- Settles O58: `step_keeps` with the invariant of each body. -/
theorem stepKeepsTheInvariant : Obligations.StepKeepsTheInvariant := fun _ _ hs h =>
  step_keeps (P := Inv) (fun _ _ _ _ _ _ _ h => h) inv_resetElements
    (fun _ _ _ _ => body_inv) (fun _ _ op hc _ => inv_errorEntry op hc) hs h

/-! ### The function flags -/

theorem isFunctionCell_eq (side v : Nat) (ecl : Level) (x y : Nat) :
    isFunctionCell side v ecl x y = (functionDraws side v ecl).any fun d => d.at x y := rfl

/-- The mask changes the colours of the format cells, not where they are (R251). -/
theorem formatDraws_at (side : Nat) (ecl : Level) (k x y : Nat) :
    ((formatDraws side ecl k).any fun d => d.at x y) =
      (formatDraws side ecl 0).any fun d => d.at x y := by
  simp [formatDraws, Draw.at]

/-- What MASK draws again was drawn by PLACE. -/
theorem isFunctionCell_of_final {side v : Nat} {ecl : Level} {k x y : Nat}
    (h : ((formatDraws side ecl k ++ versionDraws side v).any fun d => d.at x y) = true) :
    isFunctionCell side v ecl x y = true := by
  rw [List.any_append, formatDraws_at, Bool.or_eq_true] at h
  rw [isFunctionCell_eq, functionDraws]
  simp only [List.any_append, Bool.or_eq_true]
  rcases h with h | h
  · exact .inl (.inl (.inr h))
  · exact .inl (.inr h)

/-- After the function patterns are drawn the flags of the symbol are its function cells (R241). -/
theorem patterned_fn {s : State} (hsize : s.size.toNat ≤ Config.maxSide) {x y : Nat}
    (hx : x < s.size.toNat) (hy : y < s.size.toNat) :
    cell (patterned s).fn x y = isFunctionCell s.size.toNat s.version.toNat s.ecl x y := by
  have hx' := hx.trans_le hsize
  have hy' := hy.trans_le hsize
  rw [patterned, drawAll_fn _ _ hx' hy', clearSquare, cell_mapSquare, if_pos ⟨hx, hy, hx', hy'⟩,
    Bool.false_or, isFunctionCell_eq]

theorem placeBody_flags {s t : State} (hsize : s.size.toNat ≤ Config.maxSide)
    (h : placeBody s = .ok t) : FlagsOk t := by
  obtain ⟨-, -, rfl⟩ := placeBody_ok h
  intro _ x hx y hy
  exact (congrArg (cell · x y) (placeData_fn _ _ _ _)).trans (patterned_fn hsize hx hy)

theorem maskBody_flags {s t : State} (hsize : s.size.toNat ≤ Config.maxSide)
    (h : maskBody s = .ok t) (hs : FlagsOk s) : FlagsOk t := by
  obtain ⟨hphase, pen, m, k, dark, hfn, -, rfl⟩ := maskBody_ok h
  intro _ x hx y hy
  have hflag := hs (.inl hphase) x hx y hy
  show cell (finalMatrix s.size.toNat s.version.toNat s.ecl k m).fn x y = _
  rw [finalMatrix, drawAll_fn _ _ (hx.trans_le hsize) (hy.trans_le hsize), applyMask_fn, hfn, hflag]
  cases hdrawn : (formatDraws s.size.toNat s.ecl k ++ versionDraws s.size.toNat s.version.toNat).any
      fun d => d.at x y with
  | false => exact Bool.or_false _
  | true => exact (Bool.or_true _).trans (isFunctionCell_of_final hdrawn).symm

/-- Only PLACE and MASK, alone or in RUN, reach the phases that show the symbol. -/
theorem body_flags {i : Instr} {b : State → Except ErrCode State} {s t : State}
    (hb : commandBody i = some b) (hrun : i ≠ .run) (h : b s = .ok t) (hconf : ConfigOk s)
    (hs : FlagsOk s) : FlagsOk t := by
  obtain ⟨hbefore, hafter⟩ := body_phase hb h
  cases i <;> cases hb
  case run => exact absurd rfl hrun
  case place => exact placeBody_flags (hconf.configured (placeBody_ok h).1).size_le h
  case mask => exact maskBody_flags (hconf.configured (maskBody_ok h).1).size_le h hs
  all_goals
    intro hphase
    rw [phaseAfter, Option.some.injEq] at hafter
    rw [← hafter] at hphase
    simp at hphase

/-- Settles O59: `step_keeps` with the invariant, whose configuration bounds the symbol, and the
flags. -/
theorem stepKeepsFunctionFlagsExact : Obligations.StepKeepsFunctionFlagsExact := by
  intro s t hinv hflags h
  refine (step_keeps (P := fun s => Inv s ∧ FlagsOk s) (fun _ _ _ _ _ _ _ h => h)
    (fun s => ⟨inv_resetElements s, fun h => by simp [State.reset] at h⟩) ?_ ?_ ⟨hinv, hflags⟩ h).2
  · exact fun i b s t hb hi h ⟨hinv, hflags⟩ =>
      ⟨body_inv hb hi h hinv, body_flags hb hi h hinv.1 hflags⟩
  · exact fun s c op hc _ ⟨hinv, _⟩ => ⟨inv_errorEntry op hc hinv, fun h => by simp at h⟩

end Sys2Proof.Machine
end

section
/-! PROOFS. Noninterference of unwritten array contents (spec/10_state.md R76): on states that differ
only in them every operation answers alike. The relation is followed through each body by `Alike`. -/

namespace Sys2Proof.Machine

/-! ### Answers that are alike -/

/-- Two answers alike up to a relation: the same error, or related results. -/
inductive Alike {α : Type} (R : α → α → Prop) : Except ErrCode α → Except ErrCode α → Prop
  | ok {a b : α} (h : R a b) : Alike R (.ok a) (.ok b)
  | error (c : ErrCode) : Alike R (.error c) (.error c)

theorem Alike.ite {α : Type} {R : α → α → Prop} {c : Prop} [Decidable c]
    {x y x' y' : Except ErrCode α} (hx : Alike R x y) (hx' : Alike R x' y') :
    Alike R (if c then x else x') (if c then y else y') := by
  by_cases h : c
  · rwa [if_pos h, if_pos h]
  · rwa [if_neg h, if_neg h]

theorem Alike.bind {α β : Type} {R : α → α → Prop} {R' : β → β → Prop} {x y : Except ErrCode α}
    {f g : α → Except ErrCode β} (hx : Alike R x y) (hf : ∀ a b, R a b → Alike R' (f a) (g b)) :
    Alike R' (x >>= f) (y >>= g) := by
  cases hx with
  | ok h => exact hf _ _ h
  | error c => exact .error c

/-- A weaker relation, which may use where the first result comes from. -/
theorem Alike.mono {α : Type} {R R' : α → α → Prop} {x y : Except ErrCode α} (hx : Alike R x y)
    (h : ∀ a b, x = .ok a → R a b → R' a b) : Alike R' x y := by
  cases hx with
  | ok hR => exact .ok (h _ _ rfl hR)
  | error c => exact .error c

/-! ### Operations that read no array -/

/-- A state with other array contents. -/
def withArrays (d q : List Byte) (m : Matrix) (s : State) : State :=
  { s with dataCw := d, stream := q, matrix := m }

/-- Every element but the arrays is the same. -/
def SameElements (s t : State) : Prop := ∃ d q m, t = withArrays d q m s

theorem SameButUnwritten.sameElements {s t : State} (h : SameButUnwritten s t) : SameElements s t :=
  ⟨t.dataCw, t.stream, t.matrix, h.1⟩

/-- While framing no array has been written. -/
theorem SameElements.of_framing {s t : State} (hp : s.phase = .framing) (h : SameElements s t) :
    SameButUnwritten s t := by
  obtain ⟨d, q, m, rfl⟩ := h
  refine ⟨rfl, fun h => ?_, fun h => ?_, fun h => ?_⟩ <;> simp [hp, Phase.showsStream] at h

theorem appendBits_alike (value n : Nat) {s t : State} (h : SameElements s t) :
    Alike SameElements (appendBits value n s) (appendBits value n t) := by
  obtain ⟨d, q, m, rfl⟩ := h
  exact .ite (.error _) (.ite (.error _) (.ok ⟨d, q, m, rfl⟩))

theorem emitFnc1_alike {s t : State} (h : SameElements s t) :
    Alike SameElements (emitFnc1 s) (emitFnc1 t) := by
  obtain ⟨d, q, m, rfl⟩ := h
  unfold emitFnc1
  show Alike SameElements _ (match fnc1Indicator s.fnc1 with
    | none => _
    | some indicator => _)
  cases fnc1Indicator s.fnc1 with
  | none => exact .ok ⟨d, q, m, rfl⟩
  | some indicator =>
    refine .ite (.ok ⟨d, q, m, rfl⟩) (.bind (appendBits_alike _ _ ⟨d, q, m, rfl⟩) ?_)
    rintro a _ ⟨d, q, m, rfl⟩
    exact .ok ⟨d, q, m, rfl⟩

theorem segmentClose_alike {s t : State} (h : SameElements s t) :
    Alike SameElements (segmentClose s) (segmentClose t) := by
  obtain ⟨d, q, m, rfl⟩ := h
  unfold segmentClose
  show Alike SameElements _ (match flushWidth s.segMode s.pendN.toNat with
    | some w => _
    | none => _)
  cases flushWidth s.segMode s.pendN.toNat with
  | none => exact .ok ⟨d, q, m, rfl⟩
  | some w =>
    refine .bind (appendBits_alike _ _ ⟨d, q, m, rfl⟩) ?_
    rintro a _ ⟨d, q, m, rfl⟩
    exact .ok ⟨d, q, m, rfl⟩

theorem putValue_alike (mode : Mode) (v : Nat) {s t : State} (h : SameElements s t) :
    Alike SameElements (putValue mode v s) (putValue mode v t) := by
  have happend (value n : Nat) : Alike SameElements
      (appendBits value n s >>= fun s => .ok (hold 0 0 s))
      (appendBits value n t >>= fun s => .ok (hold 0 0 s)) := by
    refine .bind (appendBits_alike _ _ h) ?_
    rintro a _ ⟨d, q, m, rfl⟩
    exact .ok ⟨d, q, m, rfl⟩
  cases mode with
  | numeric =>
    obtain ⟨d, q, m, rfl⟩ := h
    exact .ite (happend _ _) (.ok ⟨d, q, m, rfl⟩)
  | alphanumeric =>
    obtain ⟨d, q, m, rfl⟩ := h
    exact .ite (.ok ⟨d, q, m, rfl⟩) (happend _ _)
  | byte => exact appendBits_alike _ _ h
  | kanji => exact appendBits_alike _ _ h

theorem putBody_alike (c : BitVec 16) {s t : State} (h : SameElements s t) :
    Alike SameElements (putBody c s) (putBody c t) := by
  obtain ⟨d, q, m, rfl⟩ := h
  refine .ite (.error _) ?_
  show Alike SameElements _ (match charValue s.segMode c.toNat with
    | none => _
    | some v => _)
  cases charValue s.segMode c.toNat with
  | none => exact .error _
  | some v =>
    refine .bind (putValue_alike _ _ ⟨d, q, m, rfl⟩) ?_
    rintro a _ ⟨d, q, m, rfl⟩
    exact .ite (segmentClose_alike ⟨d, q, m, rfl⟩) (.ok ⟨d, q, m, rfl⟩)

theorem saHeaderBody_alike (p : BitVec 8) (c : BitVec 5) (i : BitVec 4) {s t : State}
    (h : SameElements s t) : Alike SameElements (saHeaderBody p c i s) (saHeaderBody p c i t) := by
  obtain ⟨d, q, m, rfl⟩ := h
  refine .ite (.error _) <| .ite (.error _) <| .ite (.error _) <|
    .bind (appendBits_alike _ _ ⟨d, q, m, rfl⟩) fun _ _ h =>
      .bind (appendBits_alike _ _ h) fun _ _ h => .bind (appendBits_alike _ _ h) fun _ _ h => .bind (appendBits_alike _ _ h) ?_
  rintro a _ ⟨d, q, m, rfl⟩
  exact .ok ⟨d, q, m, rfl⟩

theorem segBeginBody_alike (count : BitVec 16) (mode : Mode) {s t : State} (h : SameElements s t) :
    Alike SameElements (segBeginBody count mode s) (segBeginBody count mode t) := by
  obtain ⟨d, q, m, rfl⟩ := h
  refine .ite (.error _) <| .ite (.error _) <|
    .bind (appendBits_alike _ _ ⟨d, q, m, rfl⟩) fun _ _ h => .bind (emitFnc1_alike h) fun _ _ h => .bind (appendBits_alike _ _ h) ?_
  rintro a _ ⟨d, q, m, rfl⟩
  exact .ok ⟨d, q, m, rfl⟩

theorem configBody_alike (f : BitVec 2) (auto : Bool) (id : BitVec 3) (e : Level) (v : BitVec 6)
    {s t : State} (h : SameElements s t) :
    Alike SameElements (configBody f auto id e v s) (configBody f auto id e v t) := by
  obtain ⟨d, q, m, rfl⟩ := h
  refine .ite (.error _) (.ite (.error _) ?_)
  cases fnc1OfCode f with
  | none => exact .error _
  | some f => exact .ok ⟨d, q, m, rfl⟩

/-! ### FINISH and ECC -/

theorem padLoop_alike (rounds p : Nat) {s t : State} (h : SameElements s t) :
    Alike SameElements (padLoop rounds p s) (padLoop rounds p t) := by
  induction rounds generalizing p s t with
  | zero => exact .ok h
  | succ rounds ih =>
    obtain ⟨d, q, m, rfl⟩ := h
    exact .ite (.bind (appendBits_alike _ _ ⟨d, q, m, rfl⟩) fun _ _ h => ih _ h) (.ok ⟨d, q, m, rfl⟩)

/-- Entries written over two arrays are the same in both. -/
theorem sameEntries_overwrite (a b l : List Byte) :
    SameEntries l.length (overwrite a l) (overwrite b l) := by
  intro i hi
  rw [entry_overwrite, entry_overwrite, if_pos hi, if_pos hi]

/-- FINISH writes every codeword a read can show in PADDED. -/
theorem finishBody_alike {s t : State} (h : SameElements s t) :
    Alike SameButUnwritten (finishBody s) (finishBody t) := by
  obtain ⟨d, q, m, rfl⟩ := h
  refine .ite (.error _) <| .bind (appendBits_alike _ _ ⟨d, q, m, rfl⟩) ?_
  rintro a _ ⟨d, q, m, rfl⟩
  refine .bind (appendBits_alike _ _ ⟨d, q, m, rfl⟩) ?_
  rintro a _ ⟨d, q, m, rfl⟩
  refine .bind (padLoop_alike _ _ ⟨d, q, m, rfl⟩) ?_
  rintro a _ ⟨d, q, m, rfl⟩
  refine .ok ⟨rfl, fun _ => ?_, nofun, nofun⟩
  have hentries := sameEntries_overwrite a.dataCw d (packBytes a.data.toNat a.bitBuf)
  rw [packBytes_length] at hentries
  exact hentries

theorem entries_congr {n : Nat} {a b : List Byte} (h : SameEntries n a b) :
    entries n a = entries n b :=
  List.map_congr_left fun i hi => h i (List.mem_range.1 hi)

/-- ECC reads the codewords FINISH has written and writes the whole stream. -/
theorem eccBody_alike {s t : State} (hconf : ConfigOk s) (h : SameButUnwritten s t) :
    Alike SameButUnwritten (eccBody s) (eccBody t) := by
  obtain ⟨ht, hdata, -⟩ := h
  by_cases hphase : s.phase = .padded
  · rw [ht]
    have hconf := hconf.configured hphase
    refine .ite (.error _) (.ok ⟨?_, nofun, fun _ => ?_, nofun⟩)
    · rfl
    · show SameEntries s.raw.toNat (overwrite s.stream _) (overwrite t.stream (codewordStream
        s.blocks.toNat s.eccLen.toNat s.raw.toNat (entries s.data.toNat t.dataCw)))
      rw [← entries_congr (hdata hphase)]
      have hentries := sameEntries_overwrite s.stream t.stream (codewordStream s.blocks.toNat
        s.eccLen.toNat s.raw.toNat (entries s.data.toNat s.dataCw))
      rwa [hconf.codewordStream_length] at hentries
  · have hphase' : .padded ≠ t.phase := by
      rw [ht]
      exact Ne.symm hphase
    rw [body_wrong_phase (i := .ecc) rfl rfl (Ne.symm hphase),
      body_wrong_phase (i := .ecc) rfl rfl hphase']
    exact .error _

/-! ### The symbol -/

theorem rightColumns_bounds {rounds right r : Nat} (h : r ∈ rightColumns rounds right) :
    1 ≤ r ∧ r ≤ right := by
  induction rounds generalizing right with
  | zero => cases h
  | succ rounds ih =>
    unfold rightColumns at h
    split at h
    · cases h
    · rcases List.mem_cons.1 h with rfl | h
      · split <;> omega
      · have := ih h
        split at this <;> omega

/-- The path stays in the symbol. -/
theorem zigzag_bounds {side : Nat} {p : Nat × Nat} (h : p ∈ zigzag side) :
    p.1 < side ∧ p.2 < side := by
  obtain ⟨right, hright, h⟩ := List.mem_flatMap.1 h
  obtain ⟨vert, hvert, h⟩ := List.mem_flatMap.1 h
  have hr := rightColumns_bounds hright
  have hv := List.mem_range.1 hvert
  have hy : (if (right + 1) &&& 2 = 0 then side - 1 - vert else vert) < side := by
    split <;> omega
  rcases List.mem_pair.1 h with rfl | rfl
  · exact ⟨by show right < side; omega, hy⟩
  · exact ⟨by show right - 1 < side; omega, hy⟩

theorem setFn_sameSquare {side : Nat} {a b : Matrix} (d : Draw) (h : SameSquare side a b) :
    SameSquare side (setFn a d) (setFn b d) := by
  intro x hx y hy
  obtain ⟨hmod, hfn⟩ := h x hx y hy
  simp only [setFn, cell_setCell, hmod, hfn, and_self]

theorem drawAll_sameSquare {side : Nat} {a b : Matrix} (ds : List Draw) (h : SameSquare side a b) :
    SameSquare side (drawAll ds a) (drawAll ds b) := by
  induction ds generalizing a b with
  | nil => exact h
  | cons d ds ih => exact ih (setFn_sameSquare d h)

theorem clearSquare_sameSquare {side : Nat} (hside : side ≤ Config.maxSide) (a b : Matrix) :
    SameSquare side (clearSquare side a) (clearSquare side b) := by
  intro x hx y hy
  have hcell : x < side ∧ y < side ∧ x < Config.maxSide ∧ y < Config.maxSide :=
    ⟨hx, hy, hx.trans_le hside, hy.trans_le hside⟩
  simp only [clearSquare, cell_mapSquare, if_pos hcell, and_self]

theorem applyMask_sameSquare {side : Nat} {a b : Matrix} (k : Nat) (h : SameSquare side a b) :
    SameSquare side (applyMask k side a) (applyMask k side b) := by
  intro x hx y hy
  obtain ⟨hmod, hfn⟩ := h x hx y hy
  refine ⟨?_, hfn⟩
  rw [cell_applyMask, cell_applyMask, hmod, hfn]

theorem streamBit_congr {n i : Nat} {q r : List Byte} (h : SameEntries n q r) (hi : i < 8 * n) :
    streamBit q i = streamBit r i := by
  rw [streamBit, streamBit, h (i / 8) (by omega)]

theorem placeBit_alike {side raw : Nat} {q r : List Byte} (hq : SameEntries raw q r) {p : Nat × Nat}
    (hp : p.1 < side ∧ p.2 < side) {a b : Matrix × Nat} (h : SameSquare side a.1 b.1 ∧ a.2 = b.2) :
    SameSquare side (placeBit q (8 * raw) a p).1 (placeBit r (8 * raw) b p).1 ∧
      (placeBit q (8 * raw) a p).2 = (placeBit r (8 * raw) b p).2 := by
  obtain ⟨hsquare, hcount⟩ := h
  unfold placeBit
  rw [← hcount, ← (hsquare p.1 hp.1 p.2 hp.2).2]
  by_cases hfree : cell a.1.fn p.1 p.2 = false ∧ a.2 < 8 * raw
  · rw [if_pos hfree, if_pos hfree, ← streamBit_congr hq hfree.2]
    refine ⟨fun x hx y hy => ?_, rfl⟩
    obtain ⟨hmod, hfn⟩ := hsquare x hx y hy
    exact ⟨by simp only [cell_setCell, hmod], hfn⟩
  · rw [if_neg hfree, if_neg hfree]
    exact ⟨hsquare, hcount⟩

theorem foldl_placeBit_alike {side raw : Nat} {q r : List Byte} (hq : SameEntries raw q r)
    {path : List (Nat × Nat)} (hpath : ∀ p ∈ path, p.1 < side ∧ p.2 < side) {a b : Matrix × Nat}
    (h : SameSquare side a.1 b.1 ∧ a.2 = b.2) :
    SameSquare side (path.foldl (placeBit q (8 * raw)) a).1 (path.foldl (placeBit r (8 * raw)) b).1 ∧
      (path.foldl (placeBit q (8 * raw)) a).2 = (path.foldl (placeBit r (8 * raw)) b).2 := by
  induction path generalizing a b with
  | nil => exact h
  | cons p path ih =>
    exact ih (fun p hp => hpath p (List.mem_cons_of_mem _ hp))
      (placeBit_alike hq (hpath p List.mem_cons_self) h)

theorem placeData_alike {side raw : Nat} {q r : List Byte} (hq : SameEntries raw q r) {a b : Matrix}
    (h : SameSquare side a b) :
    SameSquare side (placeData side raw q a).1 (placeData side raw r b).1 ∧
      (placeData side raw q a).2 = (placeData side raw r b).2 :=
  foldl_placeBit_alike hq (fun _ hp => zigzag_bounds hp) ⟨h, rfl⟩

/-- PLACE clears and draws the whole symbol and reads the stream ECC has written. -/
theorem placeBody_alike {s t : State} (hconf : ConfigOk s) (h : SameButUnwritten s t) :
    Alike SameButUnwritten (placeBody s) (placeBody t) := by
  obtain ⟨ht, -, hstream, -⟩ := h
  by_cases hphase : s.phase = .interleaved
  · rw [ht]
    have hsize := (hconf.configured hphase).size_le
    have hstream := hstream (by rw [hphase]; rfl)
    obtain ⟨hsquare, hcount⟩ := placeData_alike hstream (drawAll_sameSquare
      (functionDraws s.size.toNat s.version.toNat s.ecl)
      (clearSquare_sameSquare hsize s.matrix t.matrix))
    refine .ite (.error _) ?_
    show Alike SameButUnwritten _
      (if (placeData s.size.toNat s.raw.toNat t.stream _).2 ≠ _ then _ else _)
    rw [← hcount]
    exact .ite (.error _) (.ok ⟨rfl, nofun, fun _ => hstream, fun _ => hsquare⟩)
  · have hphase' : .interleaved ≠ t.phase := by
      rw [ht]
      exact Ne.symm hphase
    rw [body_wrong_phase (i := .place) rfl rfl (Ne.symm hphase),
      body_wrong_phase (i := .place) rfl rfl hphase']
    exact .error _

/-! ### Masking -/

theorem darkCount_congr {side : Nat} {g g' : Grid}
    (h : ∀ x < side, ∀ y < side, cell g x y = cell g' x y) :
    darkCount side g = darkCount side g' := by
  unfold darkCount
  congr 1
  refine List.map_congr_left fun y hy => List.countP_congr fun x hx => ?_
  rw [h x (List.mem_range.1 hx) y (List.mem_range.1 hy)]

theorem penalty_congr {side : Nat} {g g' : Grid}
    (h : ∀ x < side, ∀ y < side, cell g x y = cell g' x y) : penalty side g = penalty side g' := by
  have hrow (a : Nat) (ha : a ∈ List.range side) : rowCells side g a = rowCells side g' a :=
    List.map_congr_left fun b hb => h b (List.mem_range.1 hb) a (List.mem_range.1 ha)
  have hcolumn (a : Nat) (ha : a ∈ List.range side) : columnCells side g a = columnCells side g' a :=
    List.map_congr_left fun b hb => h a (List.mem_range.1 ha) b (List.mem_range.1 hb)
  have hrun : runPenalty side g = runPenalty side g' := by
    unfold runPenalty
    rw [List.map_congr_left fun a ha => congrArg (linePenalty side) (hrow a ha),
      List.map_congr_left fun a ha => congrArg (linePenalty side) (hcolumn a ha)]
  have hblock : blockPenalty side g = blockPenalty side g' := by
    unfold blockPenalty
    congr 2
    refine List.map_congr_left fun y hy => List.countP_congr fun x hx => ?_
    have hx := List.mem_range.1 hx
    have hy := List.mem_range.1 hy
    unfold sameBlock
    rw [h x (by omega) y (by omega), h (x + 1) (by omega) y (by omega),
      h x (by omega) (y + 1) (by omega), h (x + 1) (by omega) (y + 1) (by omega)]
  unfold penalty
  rw [hrun, hblock, darkCount_congr h]

/-- What `SameButUnwritten` says where the symbol is written, in PLACED and DONE. -/
def SameSymbol (s t : State) : Prop :=
  SameElements s t ∧ SameEntries s.raw.toNat s.stream t.stream ∧
    SameSquare s.size.toNat s.matrix t.matrix

theorem scoreMask_alike (k : Nat) {s t : State} (h : SameSymbol s t) :
    Alike SameSymbol (scoreMask s k) (scoreMask t k) := by
  obtain ⟨⟨d, q, m, rfl⟩, hstream, hsquare⟩ := h
  have hmasked := applyMask_sameSquare k hsquare
  have hpen := penalty_congr fun x hx y hy => (hmasked x hx y hy).1
  unfold scoreMask
  show Alike SameSymbol _ (match penalty s.size.toNat (applyMask k s.size.toNat m).mod with
    | .error c => _
    | .ok p => _)
  rw [← show _ = penalty s.size.toNat (applyMask k s.size.toNat m).mod from hpen]
  simp only []
  cases penalty s.size.toNat (applyMask k s.size.toNat s.matrix).mod with
  | error c => exact .error c
  | ok p => exact .ok ⟨⟨d, q, _, rfl⟩, hstream, applyMask_sameSquare k hmasked⟩

theorem scoreMasks_alike (ks : List Nat) {s t : State} (h : SameSymbol s t) :
    Alike SameSymbol (scoreMasks ks s) (scoreMasks ks t) := by
  induction ks generalizing s t with
  | nil => exact .ok h
  | cons k ks ih =>
    have hscore := scoreMask_alike k h
    unfold scoreMasks
    generalize scoreMask s k = x, scoreMask t k = y at hscore ⊢
    cases hscore with
    | ok h => exact ih h
    | error c => exact .error c

/-- A mask is chosen alike: the same id, from states alike. -/
theorem chooseMask_alike {s t : State} (h : SameSymbol s t) :
    Alike (fun a b => SameSymbol a.1 b.1 ∧ a.2 = b.2) (chooseMask s) (chooseMask t) := by
  have hscore := scoreMasks_alike (List.range 8) h
  obtain ⟨⟨d, q, m, rfl⟩, hrest⟩ := h
  unfold chooseMask
  refine .ite ?_ (.ok ⟨⟨⟨d, q, m, rfl⟩, hrest⟩, rfl⟩)
  generalize scoreMasks (List.range 8) s = x, scoreMasks (List.range 8) (withArrays d q m s) = y
    at hscore ⊢
  cases hscore with
  | error c => exact .error c
  | ok h =>
    obtain ⟨⟨d, q, m, rfl⟩, hrest⟩ := h
    exact .ok ⟨⟨⟨d, q, m, rfl⟩, hrest⟩, rfl⟩

theorem SameButUnwritten.sameSymbol {s t : State} (h : SameButUnwritten s t)
    (hphase : s.phase = .placed) : SameSymbol s t := by
  have hsame := h.sameElements
  obtain ⟨-, -, hstream, hsquare⟩ := h
  exact ⟨hsame, hstream (by rw [hphase]; rfl), hsquare (.inl hphase)⟩

/-- MASK reads the symbol alone. -/
theorem maskBody_alike {s t : State} (h : SameButUnwritten s t) :
    Alike SameButUnwritten (maskBody s) (maskBody t) := by
  have hphase' : t.phase = s.phase := by rw [h.1]
  by_cases hphase : s.phase = .placed
  · have hchoose := chooseMask_alike (h.sameSymbol hphase)
    unfold maskBody
    rw [hphase', hphase]
    refine .ite (.error _) ?_
    generalize chooseMask s = x, chooseMask t = y at hchoose ⊢
    cases hchoose with
    | error c => exact .error c
    | @ok a b h =>
      obtain ⟨u, k⟩ := a
      obtain ⟨_, _⟩ := b
      obtain ⟨⟨⟨d, q, m, rfl⟩, hstream, hsquare⟩, rfl⟩ := h
      have hfinal : SameSquare u.size.toNat
          (finalMatrix u.size.toNat u.version.toNat u.ecl k u.matrix)
          (finalMatrix u.size.toNat u.version.toNat u.ecl k m) :=
        drawAll_sameSquare _ (applyMask_sameSquare k hsquare)
      refine .ok ⟨?_, nofun, fun _ => hstream, fun _ => hfinal⟩
      simp only [darkCount_congr fun x hx y hy => (hfinal x hx y hy).1]
      rfl
  · rw [body_wrong_phase (i := .mask) rfl rfl (Ne.symm hphase),
      body_wrong_phase (i := .mask) rfl rfl (hphase' ▸ Ne.symm hphase)]
    exact .error _

/-! ### Commands, reads and steps -/

/-- A body that only frames: the phase it answers in shows no array. -/
theorem Alike.of_framing {i : Instr} {b : State → Except ErrCode State} {s t : State}
    (hb : commandBody i = some b) (hi : Claims.phaseAfter i = some .framing)
    (h : Alike SameElements (b s) (b t)) : Alike SameButUnwritten (b s) (b t) := by
  refine h.mono fun u v hu hR => hR.of_framing ?_
  have hafter := (body_phase hb hu).2
  rw [hi, Option.some.injEq] at hafter
  exact hafter.symm

theorem body_alike {i : Instr} {b : State → Except ErrCode State} {s t : State}
    (hb : commandBody i = some b) (hconf : ConfigOk s) (h : SameButUnwritten s t) :
    Alike SameButUnwritten (b s) (b t) := by
  have hsame := h.sameElements
  cases i <;> cases hb
  case config => exact .of_framing (i := .config ..) rfl rfl (configBody_alike _ _ _ _ _ hsame)
  case appendBits n =>
    refine .of_framing (i := .appendBits n) rfl rfl ?_
    obtain ⟨d, q, m, rfl⟩ := hsame
    exact .ite (.error _) (appendBits_alike _ _ ⟨d, q, m, rfl⟩)
  case saHeader => exact .of_framing (i := .saHeader ..) rfl rfl (saHeaderBody_alike _ _ _ hsame)
  case eci v =>
    refine .of_framing (i := .eci v) rfl rfl ?_
    obtain ⟨d, q, m, rfl⟩ := hsame
    exact .ite (.error _) <| .ite (.error _) <|
      .bind (appendBits_alike _ _ ⟨d, q, m, rfl⟩) fun _ _ h => appendBits_alike _ _ h
  case segBegin => exact .of_framing (i := .segBegin ..) rfl rfl (segBeginBody_alike _ _ hsame)
  case put c => exact .of_framing (i := .put c) rfl rfl (putBody_alike c hsame)
  case finish => exact finishBody_alike hsame
  case ecc => exact eccBody_alike hconf h
  case place => exact placeBody_alike hconf h
  case mask => exact maskBody_alike h
  case run =>
    refine .bind ((finishBody_alike hsame).mono fun a b ha hR =>
      And.intro (body_configOk (i := .finish) rfl ha hconf) hR) fun a b ⟨hconf, h⟩ => ?_
    refine .bind ((eccBody_alike hconf h).mono fun a b ha hR =>
      And.intro (body_configOk (i := .ecc) rfl ha hconf) hR) fun a b ⟨hconf, h⟩ => ?_
    exact .bind (placeBody_alike hconf h) fun _ _ h => maskBody_alike h

/-- What an operation answers on one of two states alike, it answers alike on the other. -/
def AnswersAlike (op : State → Host.Outcome State Fault Refusal) (s t : State) : Prop :=
  ∀ s', op s = .next s' → ∃ t', op t = .next t' ∧ SameButUnwritten s' t'

theorem answersAlike_next {s t : State} {f : State → State} (h : SameButUnwritten (f s) (f t)) :
    AnswersAlike (fun s => .next (f s)) s t := by
  rintro _ ⟨⟩
  exact ⟨f t, rfl, h⟩

/-- ERROR shows no array. -/
theorem sameButUnwritten_errorEntry {s t : State} (c : ErrCode) (op : Byte)
    (h : SameButUnwritten s t) : SameButUnwritten (errorEntry c op s) (errorEntry c op t) := by
  obtain ⟨d, q, m, rfl⟩ := h.sameElements
  exact ⟨rfl, nofun, nofun, nofun⟩

theorem command_answersAlike (op : Byte) {body : State → Except ErrCode State} {s t : State}
    (hbody : Alike SameButUnwritten (body s) (body t)) (h : SameButUnwritten s t) :
    AnswersAlike (command op body) s t := by
  have hphase : t.phase = s.phase := by rw [h.1]
  by_cases herr : s.phase = .error
  · intro s' hs
    rw [command_in_error herr] at hs
    cases hs
    exact ⟨t, command_in_error (hphase.trans herr), h⟩
  · intro s' hs
    unfold command at hs ⊢
    rw [if_neg herr] at hs
    rw [hphase, if_neg herr]
    generalize body s = x, body t = y at hbody hs ⊢
    cases hbody with
    | ok hR =>
      cases hs
      exact ⟨_, rfl, hR⟩
    | error c =>
      cases hs
      exact ⟨_, rfl, sameButUnwritten_errorEntry c op h⟩

/-- Reset empties both alike. -/
theorem sameButUnwritten_resetElements {s t : State} (h : SameButUnwritten s t) :
    SameButUnwritten (resetElements s) (resetElements t) := by
  obtain ⟨d, q, m, rfl⟩ := h.sameElements
  exact ⟨rfl, nofun, nofun, nofun⟩

theorem exec_answersAlike (i : Instr) {s t : State} (hconf : ConfigOk s)
    (h : SameButUnwritten s t) : AnswersAlike (exec i) s t := by
  cases hb : commandBody i with
  | none =>
    cases i <;> cases hb
    · exact answersAlike_next (f := fun s => s) h
    · exact answersAlike_next (f := resetElements) (sameButUnwritten_resetElements h)
  | some b =>
    have hexec : exec i = command i.opcode b := funext (exec_eq_command hb)
    rw [hexec]
    exact command_answersAlike _ (body_alike hb hconf h) h

/-- The windows show only what the phase's commands have written (R86, R87). -/
theorem readReg_congr {s t : State} (h : SameButUnwritten s t) (r : Reg) :
    readReg s r = readReg t r := by
  obtain ⟨ht, hdata, hstream, hsquare⟩ := h
  rw [ht]
  cases r
  case modData =>
    show modDataWord s = modDataWord { s with
      dataCw := t.dataCw, stream := t.stream, matrix := t.matrix }
    unfold modDataWord
    by_cases hopen : s.phase = .done ∧ s.modX.toNat < s.size.toNat ∧ s.modY.toNat < s.size.toNat
    · obtain ⟨hdone, hx, hy⟩ := hopen
      obtain ⟨hmod, hfn⟩ := hsquare (.inr hdone) _ hx _ hy
      simp only [hmod, hfn]
    · simp only [if_neg hopen]
  case cwData =>
    show cwDataWord s = cwDataWord { s with
      dataCw := t.dataCw, stream := t.stream, matrix := t.matrix }
    unfold cwDataWord
    by_cases hpadded : s.phase = .padded ∧ s.cwIdx.toNat < s.data.toNat
    · simp only [if_pos hpadded, hdata hpadded.1 _ hpadded.2]
    · simp only [if_neg hpadded]
      by_cases hshown : s.phase.showsStream = true ∧ s.cwIdx.toNat < s.raw.toNat
      · simp only [if_pos hshown, hstream hshown.1 _ hshown.2]
      · simp only [if_neg hshown]
  all_goals rfl

theorem busRead_congr {s t : State} (h : SameButUnwritten s t) (off width : Nat) :
    busRead off width s = busRead off width t := by
  unfold busRead
  cases registerAt off with
  | none => rfl
  | some r => simp only [readReg_congr h r]

/-- The host's registers and its side of the bus written alike. -/
theorem sameButUnwritten_host {s t : State} (p : List HostEvent) (d : Option Word) (a : Word)
    (x y : BitVec 8) (i : BitVec 12) (h : SameButUnwritten s t) : SameButUnwritten
      { s with pending := p, readData := d, arg := a, modX := x, modY := y, cwIdx := i }
      { t with pending := p, readData := d, arg := a, modX := x, modY := y, cwIdx := i } := by
  obtain ⟨ht, hrest⟩ := h
  refine ⟨?_, hrest⟩
  rw [ht]

theorem writeReg_answersAlike (r : Reg) (v : Word) {s t : State} (hconf : ConfigOk s)
    (h : SameButUnwritten s t) : AnswersAlike (writeReg r v) s t := by
  obtain ⟨d, q, m, rfl⟩ := h.sameElements
  cases r
  case cmd =>
    show AnswersAlike (commandStep v) s _
    unfold commandStep
    cases decode v with
    | ok i => exact exec_answersAlike i hconf h
    | error e => exact command_answersAlike _ (.error _) h
  case arg =>
    exact answersAlike_next (f := fun s => { s with arg := v })
      (sameButUnwritten_host s.pending s.readData v s.modX s.modY s.cwIdx h)
  case modAddr =>
    exact answersAlike_next
      (f := fun s => { s with modX := v.extractLsb' 0 8, modY := v.extractLsb' 8 8 })
      (sameButUnwritten_host s.pending s.readData s.arg _ _ s.cwIdx h)
  case cwAddr =>
    exact answersAlike_next (f := fun s => { s with cwIdx := v.extractLsb' 0 12 })
      (sameButUnwritten_host s.pending s.readData s.arg s.modX s.modY _ h)
  all_goals exact answersAlike_next (f := fun s => s) h

theorem hostEvent_answersAlike (e : HostEvent) {s t : State} (hconf : ConfigOk s)
    (h : SameButUnwritten s t) : AnswersAlike (hostEvent e) s t := by
  cases e with
  | read off width =>
    intro s' hs
    unfold hostEvent at hs ⊢
    by_cases hoff : off < Config.windowBytes
    · simp only [if_pos hoff, busRead_congr h off width] at hs ⊢
      cases hs
      refine ⟨_, rfl, ?_⟩
      obtain ⟨d, q, m, rfl⟩ := h.sameElements
      exact sameButUnwritten_host s.pending _ s.arg s.modX s.modY s.cwIdx h
    · simp only [if_neg hoff] at hs
      cases hs
  | write off width v =>
    intro s' hs
    unfold hostEvent busWrite at hs ⊢
    by_cases hoff : off < Config.windowBytes
    · simp only [if_pos hoff] at hs ⊢
      by_cases hadm : admitted off width = true
      · simp only [if_pos hadm] at hs ⊢
        cases hr : registerAt off with
        | none =>
          simp only [hr] at hs ⊢
          cases hs
          exact ⟨t, rfl, h⟩
        | some r =>
          simp only [hr] at hs ⊢
          exact writeReg_answersAlike r v hconf h s' hs
      · simp only [if_neg hadm] at hs ⊢
        cases hs
        exact ⟨t, rfl, h⟩
    · simp only [if_neg hoff] at hs
      cases hs
  | rst => exact answersAlike_next (f := resetElements) (sameButUnwritten_resetElements h)

/-- Settles O60: both states wait for the same events, which they answer alike. -/
theorem unwrittenArraysAreNeverObserved : Obligations.UnwrittenArraysAreNeverObserved := by
  intro s t s' hconf h hs
  have hpending : t.pending = s.pending := by rw [h.1]
  cases hp : s.pending with
  | nil =>
    have hwait (u : State) (hu : u.pending = []) : step u = .next u := by
      rw [step, nextEvent, hu]
    rw [hwait s hp] at hs
    cases hs
    exact ⟨t, hwait t (hpending.trans hp), h⟩
  | cons e rest =>
    rw [step_of_pending hp] at hs
    rw [step_of_pending (hpending.trans hp)]
    obtain ⟨d, q, m, rfl⟩ := h.sameElements
    exact hostEvent_answersAlike e (s := { s with pending := rest }) hconf
      (sameButUnwritten_host rest s.readData s.arg s.modX s.modY s.cwIdx h) s' hs

end Sys2Proof.Machine
end

section
/-! PROOFS. The zig-zag path (spec/43_matrix_builder.md R253): it visits no cell twice, and every cell
outside column 6. -/

namespace Sys2Proof.Machine

/-- The columns of the pairs go down by two or more. -/
theorem rightColumns_pairwise (rounds right : Nat) :
    (rightColumns rounds right).Pairwise fun r r' => r' + 2 ≤ r := by
  induction rounds generalizing right with
  | zero => exact .nil
  | succ rounds ih =>
    unfold rightColumns
    split
    · exact .nil
    · refine .cons (fun r hr => ?_) (ih _)
      have := rightColumns_bounds hr
      omega

/-- From an even column the pairs cover every column but 6, where the path steps over the timing
line. -/
theorem rightColumns_cover {rounds right x : Nat} (hrounds : right ≤ rounds)
    (hright : (right % 2 = 0 ∧ 6 ≤ right) ∨ (right % 2 = 1 ∧ right ≤ 5)) (hx : x ≤ right)
    (hne : x ≠ 6) : ∃ r ∈ rightColumns rounds right, x = r ∨ x = r - 1 := by
  induction rounds generalizing right with
  | zero => omega
  | succ rounds ih =>
    unfold rightColumns
    rw [if_neg (by omega)]
    generalize hr : (if right = 6 then 5 else right) = r
    have hr : (right = 6 ∧ r = 5) ∨ (right ≠ 6 ∧ r = right) := by
      by_cases h6 : right = 6
      · exact .inl ⟨h6, by rw [← hr, if_pos h6]⟩
      · exact .inr ⟨h6, by rw [← hr, if_neg h6]⟩
    by_cases hhere : x = r ∨ x = r - 1
    · exact ⟨r, List.mem_cons_self, hhere⟩
    · obtain ⟨r', hr', hx'⟩ := ih (right := r - 2) (by omega) (by omega) (by omega)
      exact ⟨r', List.mem_cons_of_mem _ hr', hx'⟩

/-- The row of the `vert`-th step of a column pair: upwards and downwards by turns. -/
def zigzagRow (side right vert : Nat) : Nat :=
  if (right + 1) &&& 2 = 0 then side - 1 - vert else vert

theorem zigzag_eq (side : Nat) :
    zigzag side = (rightColumns side (side - 1)).flatMap fun right =>
      (List.range side).flatMap fun vert =>
        [(right, zigzagRow side right vert), (right - 1, zigzagRow side right vert)] := rfl

/-- The cells of a column pair. -/
theorem mem_columnPair {side right : Nat} {p : Nat × Nat} :
    (p ∈ (List.range side).flatMap fun vert =>
        [(right, zigzagRow side right vert), (right - 1, zigzagRow side right vert)]) ↔
      p.2 < side ∧ (p.1 = right ∨ p.1 = right - 1) := by
  obtain ⟨x, y⟩ := p
  simp only [List.mem_flatMap, List.mem_range, List.mem_pair, Prod.mk.injEq]
  constructor
  · rintro ⟨vert, hvert, ⟨rfl, rfl⟩ | ⟨rfl, rfl⟩⟩ <;> refine ⟨?_, by omega⟩ <;> unfold zigzagRow <;>
      split <;> omega
  · rintro ⟨hy, hx⟩
    have hrow : zigzagRow side right (zigzagRow side right y) = y := by
      unfold zigzagRow
      split <;> omega
    refine ⟨zigzagRow side right y, ?_, ?_⟩
    · unfold zigzagRow
      split <;> omega
    · rw [hrow]
      exact hx.imp (⟨·, rfl⟩) (⟨·, rfl⟩)

theorem columnPair_nodup {side right : Nat} (hright : 1 ≤ right) :
    ((List.range side).flatMap fun vert =>
      [(right, zigzagRow side right vert), (right - 1, zigzagRow side right vert)]).Nodup := by
  refine List.nodup_flatMap.2 ⟨fun vert _ => ?_, ?_⟩
  · have : right ≠ right - 1 := by omega
    simp [this]
  · refine List.nodup_range.imp_of_mem fun {a b} ha hb hne p hpa hpb => ?_
    have ha := List.mem_range.1 ha
    have hb := List.mem_range.1 hb
    have hrow : zigzagRow side right a ≠ zigzagRow side right b := by
      unfold zigzagRow
      split <;> omega
    simp only [List.mem_pair] at hpa hpb
    have hpa : p.2 = zigzagRow side right a := by rcases hpa with rfl | rfl <;> rfl
    have hpb : p.2 = zigzagRow side right b := by rcases hpb with rfl | rfl <;> rfl
    exact hrow (hpa.symm.trans hpb)

theorem zigzag_nodup (side : Nat) : (zigzag side).Nodup := by
  rw [zigzag_eq]
  refine List.nodup_flatMap.2
    ⟨fun right hright => columnPair_nodup (rightColumns_bounds hright).1, ?_⟩
  refine (rightColumns_pairwise side (side - 1)).imp_of_mem fun {r r'} hr hr' hgap p hp hp' => ?_
  have hpos := (rightColumns_bounds hr').1
  have hx := (mem_columnPair.1 hp).2
  have hx' := (mem_columnPair.1 hp').2
  omega

theorem mem_zigzag_of_ne {v x y : Nat} (hx : x < sideLength v) (hy : y < sideLength v)
    (hne : x ≠ 6) : (x, y) ∈ zigzag (sideLength v) := by
  have hside : sideLength v = 4 * v + 17 := rfl
  obtain ⟨r, hr, hxr⟩ := rightColumns_cover (rounds := sideLength v) (right := sideLength v - 1)
    (x := x) (by omega) (by omega) (by omega) hne
  rw [zigzag_eq]
  exact List.mem_flatMap.2 ⟨r, hr, mem_columnPair.2 ⟨hy, hxr⟩⟩

/-! ### What placement writes -/

theorem placeBit_of_free {stream : List Byte} {n : Nat} {acc : Matrix × Nat} {p : Nat × Nat}
    (hfree : cell acc.1.fn p.1 p.2 = false) (hlt : acc.2 < n) :
    placeBit stream n acc p =
      ({ acc.1 with mod := setCell acc.1.mod p.1 p.2 (streamBit stream acc.2) }, acc.2 + 1) :=
  if_pos ⟨hfree, hlt⟩

theorem placeBit_of_function {stream : List Byte} {n : Nat} {acc : Matrix × Nat} {p : Nat × Nat}
    (hfree : ¬cell acc.1.fn p.1 p.2 = false) : placeBit stream n acc p = acc :=
  if_neg fun h => hfree h.1

theorem placeBit_of_end {stream : List Byte} {n : Nat} {acc : Matrix × Nat} {p : Nat × Nat}
    (hend : ¬acc.2 < n) : placeBit stream n acc p = acc :=
  if_neg fun h => hend h.2

/-- A cell placement is not at keeps its colour. -/
theorem placeBit_mod_ne (stream : List Byte) (n : Nat) (acc : Matrix × Nat) {p q : Nat × Nat}
    (h : q ≠ p) : cell (placeBit stream n acc p).1.mod q.1 q.2 = cell acc.1.mod q.1 q.2 := by
  unfold placeBit
  split
  · show cell (setCell _ _ _ _) _ _ = _
    rw [cell_setCell, if_neg]
    rintro ⟨hx, hy, -⟩
    exact h (Prod.ext hx hy)
  · rfl

theorem foldl_placeBit_mod_notMem (stream : List Byte) (n : Nat) {path : List (Nat × Nat)}
    (acc : Matrix × Nat) {q : Nat × Nat} (h : q ∉ path) :
    cell (path.foldl (placeBit stream n) acc).1.mod q.1 q.2 = cell acc.1.mod q.1 q.2 := by
  induction path generalizing acc with
  | nil => rfl
  | cons p path ih =>
    obtain ⟨hne, hrest⟩ := List.ne_and_not_mem_of_not_mem_cons h
    rw [List.foldl_cons, ih _ hrest, placeBit_mod_ne _ _ _ hne]

/-- Along a path that visits no cell twice the free cells take the stream bits one after another, and
the free cells past the stream's end keep their colour (R253, R254). -/
theorem foldl_placeBit_mod (stream : List Byte) (n : Nat) {path : List (Nat × Nat)}
    (acc : Matrix × Nat) (hnodup : path.Nodup)
    (hin : ∀ p ∈ path, p.1 < Config.maxSide ∧ p.2 < Config.maxSide) {i : Nat} {p : Nat × Nat}
    (h : (path.filter fun p => !cell acc.1.fn p.1 p.2)[i]? = some p) :
    cell (path.foldl (placeBit stream n) acc).1.mod p.1 p.2 =
      if acc.2 + i < n then streamBit stream (acc.2 + i) else cell acc.1.mod p.1 p.2 := by
  induction path generalizing acc i with
  | nil => simp at h
  | cons q path ih =>
    obtain ⟨hq, hnodup⟩ := List.nodup_cons.1 hnodup
    have hin' := fun p hp => hin p (List.mem_cons_of_mem _ hp)
    have hfn := placeBit_fn stream n acc q
    rw [List.foldl_cons]
    by_cases hfree : cell acc.1.fn q.1 q.2 = false
    · rw [List.filter_cons_of_pos (by simp [hfree])] at h
      cases i with
      | zero =>
        obtain rfl : q = p := by simpa using h
        rw [foldl_placeBit_mod_notMem _ _ _ hq]
        obtain ⟨hx, hy⟩ := hin q List.mem_cons_self
        by_cases hlt : acc.2 < n
        · rw [placeBit_of_free hfree hlt, if_pos (by omega)]
          simp [cell_setCell, hx, hy]
        · rw [placeBit_of_end hlt, if_neg (by omega)]
      | succ i =>
        rw [List.getElem?_cons_succ] at h
        have hne : p ≠ q := by
          rintro rfl
          exact hq (List.mem_of_mem_filter (List.mem_of_getElem? h))
        rw [ih _ hnodup hin' (by rwa [hfn]), placeBit_mod_ne _ _ _ hne]
        by_cases hlt : acc.2 < n
        · rw [placeBit_of_free hfree hlt]
          simp only [Nat.add_assoc, Nat.add_comm 1 i]
        · rw [placeBit_of_end hlt, if_neg (by omega), if_neg (by omega)]
    · rw [List.filter_cons_of_neg (by simpa using hfree)] at h
      rw [placeBit_of_function hfree]
      exact ih _ hnodup hin' h

end Sys2Proof.Machine
end

section
/-! PROOFS. The function cells of a version as a set of blocks (spec/43_matrix_builder.md R241 to
R252), and with it the number of free cells, `S_RAWBITS` (spec/10_state.md R43). -/

namespace Sys2Proof.Machine

open Sys2Proof.Claims

/-! ### The cells a list of draws names -/

/-- A draw of the list is at the cell. -/
def Drawn (ds : List Draw) (x y : Nat) : Prop := ∃ d ∈ ds, d.x = x ∧ d.y = y

theorem any_at_iff {ds : List Draw} {x y : Nat} :
    (ds.any fun d => d.at x y) = true ↔ Drawn ds x y := by
  simp [Drawn, Draw.at]

theorem drawn_append {ds es : List Draw} {x y : Nat} :
    Drawn (ds ++ es) x y ↔ Drawn ds x y ∨ Drawn es x y := by
  simp only [Drawn, List.mem_append, or_and_right, exists_or]

theorem drawn_flatMap {α : Type} {l : List α} {f : α → List Draw} {x y : Nat} :
    Drawn (l.flatMap f) x y ↔ ∃ a ∈ l, Drawn (f a) x y := by
  simp only [Drawn, List.mem_flatMap]
  exact ⟨fun ⟨d, ⟨a, ha, hd⟩, h⟩ => ⟨a, ha, d, hd, h⟩, fun ⟨a, ha, d, hd, h⟩ => ⟨d, ⟨a, ha, hd⟩, h⟩⟩

theorem drawn_map {α : Type} {l : List α} {f : α → Draw} {x y : Nat} :
    Drawn (l.map f) x y ↔ ∃ a ∈ l, (f a).x = x ∧ (f a).y = y := by
  simp [Drawn]

theorem drawn_nil {x y : Nat} : ¬Drawn [] x y := by
  simp [Drawn]

theorem drawn_cons {d : Draw} {ds : List Draw} {x y : Nat} :
    Drawn (d :: ds) x y ↔ (d.x = x ∧ d.y = y) ∨ Drawn ds x y := by
  simp [Drawn]

theorem mem_span {r : Nat} {d : Int} : d ∈ span r ↔ -(r : Int) ≤ d ∧ d ≤ r := by
  simp only [span, List.mem_map, List.mem_range]
  exact ⟨fun ⟨i, hi, h⟩ => by omega, fun h => ⟨(d + r).toNat, by omega, by omega⟩⟩

/-- A square pattern covers what lies within its radius in both directions (R243, R246). -/
theorem drawn_squareDraws {side r cx cy x y : Nat} {dark : Nat → Bool} (hx : x < side)
    (hy : y < side) : Drawn (squareDraws side r dark cx cy) x y ↔
      (cx ≤ x + r ∧ x ≤ cx + r) ∧ cy ≤ y + r ∧ y ≤ cy + r := by
  simp only [Drawn, squareDraws, List.mem_flatMap, List.mem_filterMap, mem_span]
  constructor
  · rintro ⟨d, ⟨dy, hdy, dx, hdx, h⟩, rfl, rfl⟩
    split at h
    · cases h
      dsimp only at hx hy ⊢
      omega
    · cases h
  · intro h
    refine ⟨⟨x, y, dark (chebyshev ((x : Int) - cx) ((y : Int) - cy))⟩, ⟨(y : Int) - cy, by omega,
      (x : Int) - cx, by omega, ?_⟩, rfl, rfl⟩
    rw [if_pos (by omega)]
    congr 2 <;> omega

theorem drawn_timingDraws {side x y : Nat} (hx : x < side) (hy : y < side) :
    Drawn (timingDraws side) x y ↔ x = 6 ∨ y = 6 := by
  simp only [timingDraws, drawn_flatMap, drawn_cons, drawn_nil, or_false, List.mem_range]
  constructor
  · rintro ⟨i, -, h | h⟩ <;> omega
  · rintro (rfl | rfl)
    · exact ⟨y, hy, .inl ⟨rfl, rfl⟩⟩
    · exact ⟨x, hx, .inr ⟨rfl, rfl⟩⟩

theorem drawn_finderDraws {side x y : Nat} (hside : 21 ≤ side) (hx : x < side) (hy : y < side) :
    Drawn (finderDraws side) x y ↔
      (x ≤ 7 ∧ y ≤ 7) ∨ (side ≤ x + 8 ∧ y ≤ 7) ∨ (x ≤ 7 ∧ side ≤ y + 8) := by
  simp only [finderDraws, drawn_flatMap, List.mem_cons, List.not_mem_nil, or_false,
    exists_eq_or_imp, exists_eq_left, drawn_squareDraws hx hy]
  omega

theorem drawn_formatDraws {side x y : Nat} {ecl : Level} {k : Nat} (hside : 21 ≤ side)
    (hx : x < side) (hy : y < side) : Drawn (formatDraws side ecl k) x y ↔
      (x = 8 ∧ y ≤ 8 ∧ y ≠ 6) ∨ (y = 8 ∧ x ≤ 8 ∧ x ≠ 6) ∨ (y = 8 ∧ side ≤ x + 8) ∨
        (x = 8 ∧ side ≤ y + 8) := by
  have h₁ : Drawn ([0, 1, 2, 3, 4, 5].map fun i => ⟨8, i, (formatBits ecl k).testBit i⟩) x y ↔
      x = 8 ∧ y ≤ 5 := by
    simp only [drawn_map, List.mem_cons, List.not_mem_nil, or_false]
    exact ⟨fun ⟨i, hi, hix, hiy⟩ => by omega, fun h => ⟨y, by omega, h.1.symm, rfl⟩⟩
  have h₂ : Drawn ([9, 10, 11, 12, 13, 14].map fun i => ⟨14 - i, 8, (formatBits ecl k).testBit i⟩)
      x y ↔ y = 8 ∧ x ≤ 5 := by
    simp only [drawn_map, List.mem_cons, List.not_mem_nil, or_false]
    exact ⟨fun ⟨i, hi, hix, hiy⟩ => by omega, fun h => ⟨14 - x, by omega, by omega, h.1.symm⟩⟩
  have h₃ : Drawn ([0, 1, 2, 3, 4, 5, 6, 7].map fun i =>
      ⟨side - 1 - i, 8, (formatBits ecl k).testBit i⟩) x y ↔ y = 8 ∧ side ≤ x + 8 := by
    simp only [drawn_map, List.mem_cons, List.not_mem_nil, or_false]
    exact ⟨fun ⟨i, hi, hix, hiy⟩ => by omega,
      fun h => ⟨side - 1 - x, by omega, by omega, h.1.symm⟩⟩
  have h₄ : Drawn ([8, 9, 10, 11, 12, 13, 14].map fun i =>
      ⟨8, side - 15 + i, (formatBits ecl k).testBit i⟩) x y ↔ x = 8 ∧ side ≤ y + 7 := by
    simp only [drawn_map, List.mem_cons, List.not_mem_nil, or_false]
    exact ⟨fun ⟨i, hi, hix, hiy⟩ => by omega,
      fun h => ⟨y - (side - 15), by omega, h.1.symm, by omega⟩⟩
  simp only [formatDraws, darkModuleDraw, drawn_append, h₁, h₂, h₃, h₄, drawn_cons, drawn_nil,
    or_false]
  omega

theorem drawn_formatDraws_of_darkModule {side x y : Nat} {ecl : Level} {k : Nat}
    (h : Drawn [darkModuleDraw side] x y) : Drawn (formatDraws side ecl k) x y := by
  rw [formatDraws, drawn_append]
  exact .inr h

theorem drawn_versionDraws {side v x y : Nat} (hside : 21 ≤ side) (hx : x < side) (hy : y < side) :
    Drawn (versionDraws side v) x y ↔
      7 ≤ v ∧ ((side ≤ x + 11 ∧ x + 8 < side ∧ y < 6) ∨ (x < 6 ∧ side ≤ y + 11 ∧ y + 8 < side)) := by
  unfold versionDraws
  by_cases hv : v < 7
  · rw [if_pos hv]
    exact iff_of_false drawn_nil fun h => by omega
  · rw [if_neg hv]
    simp only [drawn_flatMap, drawn_cons, drawn_nil, or_false, List.mem_range]
    constructor
    · rintro ⟨i, hi, h | h⟩ <;> omega
    · rintro ⟨-, h | h⟩
      · exact ⟨3 * y + (x - (side - 11)), by omega, .inl (by omega)⟩
      · exact ⟨3 * x + (y - (side - 11)), by omega, .inr (by omega)⟩

/-! ### The alignment patterns -/

/-- The alignment positions past the first, which is 6 (R244). -/
def laterPositions (v : Nat) : List Nat := (alignPositions v).tail

/-- Those of them that are not the last. -/
def innerPositions (v : Nat) : List Nat := (laterPositions v).dropLast

/-- The positions of every version lie apart, clear of the finders, the inner ones of the version
blocks. -/
theorem positions_table : ∀ v < 41, 1 ≤ v →
    (laterPositions v).Pairwise (fun a b => a + 5 ≤ b) ∧
    (∀ a ∈ laterPositions v, 16 ≤ a ∧ a + 7 ≤ sideLength v) ∧
    ∀ a ∈ innerPositions v, a + 14 ≤ sideLength v := by decide +kernel

/-- The pairs of later positions, and the inner positions on the two timing lines. -/
def alignmentPairs (v : Nat) : List (Nat × Nat) :=
  laterPositions v ×ˢ laterPositions v ++ innerPositions v ×ˢ [6] ++ [6] ×ˢ innerPositions v

/-- They are the centres (R246). -/
theorem centres_table : ∀ v < 41, 1 ≤ v →
    (∀ c ∈ alignCentres v, c ∈ alignmentPairs v) ∧
    ∀ c ∈ alignmentPairs v, c ∈ alignCentres v := by decide +kernel

theorem mem_alignmentPairs {v a b : Nat} : (a, b) ∈ alignmentPairs v ↔
    (a ∈ laterPositions v ∧ b ∈ laterPositions v) ∨ (a ∈ innerPositions v ∧ b = 6) ∨
      (a = 6 ∧ b ∈ innerPositions v) := by
  simp only [alignmentPairs, List.mem_append, List.mem_product, List.mem_singleton, or_assoc]

/-- The coordinates an alignment pattern centred at one of the positions covers. -/
def bands : List Nat → Finset Nat
  | [] => ∅
  | a :: l => Finset.Icc (a - 2) (a + 2) ∪ bands l

theorem mem_bands {l : List Nat} {x : Nat} : x ∈ bands l ↔ ∃ a ∈ l, a ≤ x + 2 ∧ x ≤ a + 2 := by
  induction l with
  | nil => simp [bands]
  | cons a l ih =>
    simp only [bands, Finset.mem_union, Finset.mem_Icc, ih, List.mem_cons, exists_eq_or_imp,
      Nat.sub_le_iff_le_add]

theorem card_bands {l : List Nat} (hl : l.Pairwise fun a b => a + 5 ≤ b) (hlow : ∀ a ∈ l, 2 ≤ a) :
    (bands l).card = 5 * l.length := by
  induction l with
  | nil => rfl
  | cons a l ih =>
    obtain ⟨ha, hl⟩ := List.pairwise_cons.1 hl
    have hdisjoint : Disjoint (Finset.Icc (a - 2) (a + 2)) (bands l) := by
      refine Finset.disjoint_left.2 fun x hx hx' => ?_
      obtain ⟨b, hb, hxb⟩ := mem_bands.1 hx'
      have := ha b hb
      have := Finset.mem_Icc.1 hx
      omega
    have := hlow a List.mem_cons_self
    rw [bands, Finset.card_union_of_disjoint hdisjoint,
      ih hl fun b hb => hlow b (List.mem_cons_of_mem _ hb), Nat.card_Icc, List.length_cons]
    omega

section
variable {v : Nat} (h₁ : 1 ≤ v) (h₂ : v ≤ 40)
include h₁ h₂

theorem laterBands_bounds {x : Nat} (hx : x ∈ bands (laterPositions v)) :
    14 ≤ x ∧ x + 5 ≤ sideLength v := by
  obtain ⟨-, hbounds, -⟩ := positions_table v (by omega) h₁
  obtain ⟨a, ha, hxa⟩ := mem_bands.1 hx
  have := hbounds a ha
  omega

theorem innerBands_bounds {x : Nat} (hx : x ∈ bands (innerPositions v)) :
    14 ≤ x ∧ x + 12 ≤ sideLength v := by
  obtain ⟨-, hbounds, hinner⟩ := positions_table v (by omega) h₁
  obtain ⟨a, ha, hxa⟩ := mem_bands.1 hx
  have := hbounds a (List.mem_of_mem_dropLast ha)
  have := hinner a ha
  omega

theorem drawn_alignmentDraws {x y : Nat} (hx : x < sideLength v) (hy : y < sideLength v) :
    Drawn (alignmentDraws (sideLength v) v) x y ↔
      (x ∈ bands (laterPositions v) ∧ y ∈ bands (laterPositions v)) ∨
      (x ∈ bands (innerPositions v) ∧ 4 ≤ y ∧ y ≤ 8) ∨
      ((4 ≤ x ∧ x ≤ 8) ∧ y ∈ bands (innerPositions v)) := by
  have hcentres (c : Nat × Nat) : c ∈ alignCentres v ↔ c ∈ alignmentPairs v :=
    ⟨(centres_table v (by omega) h₁).1 c, (centres_table v (by omega) h₁).2 c⟩
  simp only [alignmentDraws, drawn_flatMap, drawn_squareDraws hx hy, mem_bands, hcentres,
    Prod.exists, mem_alignmentPairs]
  constructor
  · rintro ⟨a, b, ⟨ha, hb⟩ | ⟨ha, rfl⟩ | ⟨rfl, hb⟩, hxa, hyb⟩
    · exact .inl ⟨⟨a, ha, hxa⟩, b, hb, hyb⟩
    · exact .inr (.inl ⟨⟨a, ha, hxa⟩, by omega⟩)
    · exact .inr (.inr ⟨by omega, b, hb, hyb⟩)
  · rintro (⟨⟨a, ha, hxa⟩, b, hb, hyb⟩ | ⟨⟨a, ha, hxa⟩, hy⟩ | ⟨hx, b, hb, hyb⟩)
    · exact ⟨a, b, .inl ⟨ha, hb⟩, hxa, hyb⟩
    · exact ⟨a, 6, .inr (.inl ⟨ha, rfl⟩), hxa, by omega⟩
    · exact ⟨6, b, .inr (.inr ⟨rfl, hb⟩), by omega, hyb⟩

end

/-! ### The function cells -/

/-- The columns, or rows, of the version blocks (R249). -/
def versionBand (v : Nat) : Finset Nat :=
  if 7 ≤ v then Finset.Ico (sideLength v - 11) (sideLength v - 8) else ∅

/-- The blocks every version has: the corners with finder, separator and format cells, and the timing
lines between them. -/
def fixedBlocks (v : Nat) : List (Finset Nat × Finset Nat) :=
  let low := Finset.range 9
  let middle := Finset.Ico 9 (sideLength v - 8)
  let high := Finset.Ico (sideLength v - 8) (sideLength v)
  [(low, low), (high, low), (low, high), ({6}, middle), (middle, {6})]

/-- The blocks that vary: the version blocks, the alignment patterns off the timing lines, and what
those on the timing lines add to them. -/
def versionedBlocks (v : Nat) : List (Finset Nat × Finset Nat) :=
  [(versionBand v, Finset.range 6), (Finset.range 6, versionBand v),
    (bands (laterPositions v), bands (laterPositions v)),
    (bands (innerPositions v), {4, 5, 7, 8}), ({4, 5, 7, 8}, bands (innerPositions v))]

/-- The blocks the function cells of a version fall into, no two of them meeting. -/
def functionBlocks (v : Nat) : List (Finset Nat × Finset Nat) := fixedBlocks v ++ versionedBlocks v

/-- The cells of a list of blocks. -/
def blockCells : List (Finset Nat × Finset Nat) → Finset (Nat × Nat)
  | [] => ∅
  | b :: bs => b.1 ×ˢ b.2 ∪ blockCells bs

theorem mem_blockCells {bs : List (Finset Nat × Finset Nat)} {p : Nat × Nat} :
    p ∈ blockCells bs ↔ ∃ b ∈ bs, p.1 ∈ b.1 ∧ p.2 ∈ b.2 := by
  induction bs with
  | nil => simp [blockCells]
  | cons b bs ih => simp [blockCells, ih]

/-- Blocks apart in one direction or the other hold the sum of their cells. -/
theorem card_blockCells {bs : List (Finset Nat × Finset Nat)}
    (h : bs.Pairwise fun b c => Disjoint b.1 c.1 ∨ Disjoint b.2 c.2) :
    (blockCells bs).card = (bs.map fun b => b.1.card * b.2.card).sum := by
  induction bs with
  | nil => rfl
  | cons b bs ih =>
    obtain ⟨hb, hbs⟩ := List.pairwise_cons.1 h
    have hdisjoint : Disjoint (b.1 ×ˢ b.2) (blockCells bs) := by
      refine Finset.disjoint_left.2 fun p hp hp' => ?_
      obtain ⟨c, hc, hpc⟩ := mem_blockCells.1 hp'
      have hp := Finset.mem_product.1 hp
      rcases hb c hc with hd | hd
      · exact Finset.disjoint_left.1 hd hp.1 hpc.1
      · exact Finset.disjoint_left.1 hd hp.2 hpc.2
    rw [blockCells, Finset.card_union_of_disjoint hdisjoint, Finset.card_product, ih hbs,
      List.map_cons, List.sum_cons]

/-- The blocks' cells and `R(v)` make up the symbol (R43). -/
theorem area_table : ∀ v < 41, 1 ≤ v →
    rawModules v + (225 + 2 * (sideLength v - 17) + 12 * (if 7 ≤ v then 3 else 0) +
      5 * (laterPositions v).length * (5 * (laterPositions v).length) +
      8 * (5 * (innerPositions v).length)) = sideLength v * sideLength v := by decide +kernel

theorem disjoint_of_bound {A B : Finset Nat} (k : Nat) (hA : ∀ x ∈ A, x < k)
    (hB : ∀ x ∈ B, k ≤ x) : Disjoint A B :=
  Finset.disjoint_left.2 fun x hx hx' => absurd (hB x hx') (Nat.not_le.2 (hA x hx))

theorem mem_versionBand {v x : Nat} :
    x ∈ versionBand v ↔ 7 ≤ v ∧ sideLength v ≤ x + 11 ∧ x + 8 < sideLength v := by
  have hside : sideLength v = 4 * v + 17 := rfl
  unfold versionBand
  split
  · rw [Finset.mem_Ico]
    omega
  · simp only [Finset.notMem_empty, false_iff]
    omega

theorem card_versionBand (v : Nat) : (versionBand v).card = if 7 ≤ v then 3 else 0 := by
  have hside : sideLength v = 4 * v + 17 := rfl
  unfold versionBand
  split
  · rw [Nat.card_Ico]
    omega
  · rfl

theorem mem_fixedBlocks {v x y : Nat} : (∃ b ∈ fixedBlocks v, x ∈ b.1 ∧ y ∈ b.2) ↔
    (x < 9 ∧ y < 9) ∨ ((sideLength v - 8 ≤ x ∧ x < sideLength v) ∧ y < 9) ∨
      (x < 9 ∧ sideLength v - 8 ≤ y ∧ y < sideLength v) ∨ (x = 6 ∧ 9 ≤ y ∧ y < sideLength v - 8) ∨
      ((9 ≤ x ∧ x < sideLength v - 8) ∧ y = 6) := by
  simp only [fixedBlocks, List.mem_cons, List.not_mem_nil, or_false, exists_eq_or_imp,
    exists_eq_left, Finset.mem_range, Finset.mem_Ico, Finset.mem_singleton]

theorem mem_versionedBlocks {v x y : Nat} : (∃ b ∈ versionedBlocks v, x ∈ b.1 ∧ y ∈ b.2) ↔
    ((7 ≤ v ∧ sideLength v ≤ x + 11 ∧ x + 8 < sideLength v) ∧ y < 6) ∨
      (x < 6 ∧ 7 ≤ v ∧ sideLength v ≤ y + 11 ∧ y + 8 < sideLength v) ∨
      (x ∈ bands (laterPositions v) ∧ y ∈ bands (laterPositions v)) ∨
      (x ∈ bands (innerPositions v) ∧ (y = 4 ∨ y = 5 ∨ y = 7 ∨ y = 8)) ∨
      ((x = 4 ∨ x = 5 ∨ x = 7 ∨ x = 8) ∧ y ∈ bands (innerPositions v)) := by
  simp only [versionedBlocks, List.mem_cons, List.not_mem_nil, or_false, exists_eq_or_imp,
    exists_eq_left, Finset.mem_range, Finset.mem_singleton, Finset.mem_insert, mem_versionBand]

/-- Timing lines, finders and format cells make up the blocks every version has. -/
theorem drawn_fixed {v x y : Nat} {ecl : Level} {k : Nat} (hx : x < sideLength v)
    (hy : y < sideLength v) (h₁ : 1 ≤ v) :
    (Drawn (timingDraws (sideLength v)) x y ∨ Drawn (finderDraws (sideLength v)) x y ∨
      Drawn (formatDraws (sideLength v) ecl k) x y) ↔ ∃ b ∈ fixedBlocks v, x ∈ b.1 ∧ y ∈ b.2 := by
  have hside : sideLength v = 4 * v + 17 := rfl
  rw [mem_fixedBlocks, drawn_timingDraws hx hy, drawn_finderDraws (by omega) hx hy,
    drawn_formatDraws (by omega) hx hy]
  constructor
  · rintro (h | h | h) <;> omega
  · rintro (h | h | h | h | h) <;> omega

section
variable {v : Nat} (h₁ : 1 ≤ v) (h₂ : v ≤ 40)
include h₁ h₂

theorem functionBlocks_pairwise :
    (functionBlocks v).Pairwise fun b c => Disjoint b.1 c.1 ∨ Disjoint b.2 c.2 := by
  have hside : sideLength v = 4 * v + 17 := rfl
  have hlater (x : Nat) (hx : x ∈ bands (laterPositions v)) := laterBands_bounds h₁ h₂ hx
  have hinner (x : Nat) (hx : x ∈ bands (innerPositions v)) := innerBands_bounds h₁ h₂ hx
  have hversion (x : Nat) (hx : x ∈ versionBand v) := mem_versionBand.1 hx
  have hcorner : ∀ A ∈ [Finset.range 9, {6}, Finset.range 6, {4, 5, 7, 8}], ∀ x ∈ A, x < 9 := by
    decide
  have hbeyond : ∀ B ∈ [Finset.Ico 9 (sideLength v - 8),
      Finset.Ico (sideLength v - 8) (sideLength v), versionBand v, bands (laterPositions v),
      bands (innerPositions v)], ∀ x ∈ B, 9 ≤ x := by
    simp only [List.forall_mem_cons, Finset.mem_Ico]
    exact ⟨fun x hx => hx.1, fun x hx => by omega, fun x hx => by have := hversion x hx; omega,
      fun x hx => by have := hlater x hx; omega, fun x hx => by have := hinner x hx; omega, nofun⟩
  have hacross (A) (hA) (B) (hB) := disjoint_of_bound 9 (hcorner A hA) (hbeyond B hB)
  have hacross' (A) (hA) (B) (hB) := (hacross A hA B hB).symm
  have hmiddleHigh : Disjoint (Finset.Ico 9 (sideLength v - 8))
      (Finset.Ico (sideLength v - 8) (sideLength v)) := Finset.Ico_disjoint_Ico_consecutive _ _ _
  have hversionHigh : Disjoint (versionBand v) (Finset.Ico (sideLength v - 8) (sideLength v)) :=
    disjoint_of_bound (sideLength v - 8) (fun x hx => by have := hversion x hx; omega)
      fun x hx => (Finset.mem_Ico.1 hx).1
  have hinnerVersion : Disjoint (bands (innerPositions v)) (versionBand v) :=
    disjoint_of_bound (sideLength v - 11) (fun x hx => by have := hinner x hx; omega)
      fun x hx => by have := hversion x hx; omega
  have hinnerHigh : Disjoint (bands (innerPositions v))
      (Finset.Ico (sideLength v - 8) (sideLength v)) :=
    disjoint_of_bound (sideLength v - 8) (fun x hx => by have := hinner x hx; omega)
      fun x hx => (Finset.mem_Ico.1 hx).1
  have hsix : Disjoint {6} (Finset.range 6) ∧ Disjoint {6} ({4, 5, 7, 8} : Finset Nat) := by decide
  simp only [List.forall_mem_cons, List.not_mem_nil, IsEmpty.forall_iff, implies_true, and_true]
    at hacross hacross'
  simp only [functionBlocks, fixedBlocks, versionedBlocks, List.cons_append, List.nil_append,
    List.pairwise_cons, List.forall_mem_cons, List.not_mem_nil,
    IsEmpty.forall_iff, implies_true, List.Pairwise.nil, hacross, hacross', hmiddleHigh.symm,
    hversionHigh.symm, hinnerVersion.symm, hinnerHigh.symm, hsix, true_or, or_true, and_self]

/-- Version blocks and alignment patterns add the blocks that vary to the timing lines. -/
theorem drawn_versioned {x y : Nat} (hx : x < sideLength v) (hy : y < sideLength v) :
    (Drawn (timingDraws (sideLength v)) x y ∨ Drawn (alignmentDraws (sideLength v) v) x y ∨
      Drawn (versionDraws (sideLength v) v) x y) ↔
    Drawn (timingDraws (sideLength v)) x y ∨ ∃ b ∈ versionedBlocks v, x ∈ b.1 ∧ y ∈ b.2 := by
  have hside : sideLength v = 4 * v + 17 := rfl
  rw [mem_versionedBlocks, drawn_timingDraws hx hy, drawn_alignmentDraws h₁ h₂ hx hy,
    drawn_versionDraws (by omega) hx hy]
  constructor
  · rintro (h | (h | ⟨hx, h⟩ | ⟨h, hy⟩) | ⟨hv, h | h⟩)
    · exact .inl h
    · exact .inr (.inr (.inr (.inl h)))
    · by_cases h6 : y = 6
      · exact .inl (.inr h6)
      · exact .inr (.inr (.inr (.inr (.inl ⟨hx, by omega⟩))))
    · by_cases h6 : x = 6
      · exact .inl (.inl h6)
      · exact .inr (.inr (.inr (.inr (.inr ⟨by omega, hy⟩))))
    · exact .inr (.inl ⟨⟨hv, h.1, h.2.1⟩, h.2.2⟩)
    · exact .inr (.inr (.inl ⟨h.1, hv, h.2⟩))
  · rintro (h | h | h | h | ⟨hx, h⟩ | ⟨h, hy⟩)
    · exact .inl h
    · exact .inr (.inr ⟨h.1.1, .inl ⟨h.1.2.1, h.1.2.2, h.2⟩⟩)
    · exact .inr (.inr ⟨h.2.1, .inr ⟨h.1, h.2.2⟩⟩)
    · exact .inr (.inl (.inl h))
    · exact .inr (.inl (.inr (.inl ⟨hx, by omega⟩)))
    · exact .inr (.inl (.inr (.inr ⟨by omega, hy⟩)))

theorem isFunctionCell_iff (ecl : Level) {x y : Nat} (hx : x < sideLength v)
    (hy : y < sideLength v) : isFunctionCell (sideLength v) v ecl x y = true ↔
      (x, y) ∈ blockCells (functionBlocks v) := by
  have hfixed := drawn_fixed (ecl := ecl) (k := 0) hx hy h₁
  have hversioned := drawn_versioned h₁ h₂ hx hy
  have hothers (h : Drawn (timingDraws (sideLength v)) x y ∨
      Drawn (alignmentDraws (sideLength v) v) x y ∨ Drawn (versionDraws (sideLength v) v) x y) :
      (∃ b ∈ fixedBlocks v, x ∈ b.1 ∧ y ∈ b.2) ∨ ∃ b ∈ versionedBlocks v, x ∈ b.1 ∧ y ∈ b.2 :=
    (hversioned.1 h).imp_left fun h => hfixed.1 (.inl h)
  rw [isFunctionCell_eq, any_at_iff, functionDraws, mem_blockCells, functionBlocks]
  simp only [drawn_append, List.mem_append, or_and_right, exists_or]
  constructor
  · rintro (((((h | h) | h) | h) | h) | h)
    · exact .inl (hfixed.1 (.inl h))
    · exact .inl (hfixed.1 (.inr (.inl h)))
    · exact hothers (.inr (.inl h))
    · exact .inl (hfixed.1 (.inr (.inr h)))
    · exact hothers (.inr (.inr h))
    · exact .inl (hfixed.1 (.inr (.inr (drawn_formatDraws_of_darkModule h))))
  · rintro (h | h)
    · rcases hfixed.2 h with h | h | h
      · exact .inl (.inl (.inl (.inl (.inl h))))
      · exact .inl (.inl (.inl (.inl (.inr h))))
      · exact .inl (.inl (.inr h))
    · rcases hversioned.2 (.inr h) with h | h | h
      · exact .inl (.inl (.inl (.inl (.inl h))))
      · exact .inl (.inl (.inl (.inr h)))
      · exact .inl (.inr h)

/-! ### How many there are -/

theorem card_functionBlocks : rawModules v + (blockCells (functionBlocks v)).card =
    sideLength v * sideLength v := by
  have hside : sideLength v = 4 * v + 17 := rfl
  have harea := area_table v (by omega) h₁
  obtain ⟨hapart, hbounds, -⟩ := positions_table v (by omega) h₁
  have hlater := card_bands hapart fun a ha => by have := hbounds a ha; omega
  have hinner : (bands (innerPositions v)).card = 5 * (innerPositions v).length :=
    card_bands (hapart.sublist (List.dropLast_sublist _)) fun a ha => by
      have := hbounds a (List.mem_of_mem_dropLast ha)
      omega
  have hstem : ({4, 5, 7, 8} : Finset Nat).card = 4 := rfl
  rw [card_blockCells (functionBlocks_pairwise h₁ h₂)]
  simp only [functionBlocks, fixedBlocks, versionedBlocks, List.cons_append, List.nil_append,
    List.map_cons, List.map_nil, List.sum_cons, List.sum_nil, hlater, hinner, hstem,
    card_versionBand, Finset.card_range, Nat.card_Ico, Finset.card_singleton]
  omega

end

end Sys2Proof.Machine
end

section
/-! PROOFS. PLACE fills the free cells (spec/43_matrix_builder.md R253 to R256). -/

namespace Sys2Proof.Machine

open Sys2Proof.Claims

theorem freePath_nodup (s : State) : (freePath s).Nodup := (zigzag_nodup _).filter _

/-- A cell of the symbol is on the path and free, or it is a function cell: column 6, which the path
leaves out, is a timing line. -/
theorem mem_freePath {s : State} (hconf : Configured s) {x y : Nat} :
    (x, y) ∈ freePath s ↔ (x < s.size.toNat ∧ y < s.size.toNat) ∧
      (x, y) ∉ blockCells (functionBlocks s.version.toNat) := by
  obtain ⟨h₁, h₂, hsize, -⟩ := hconf
  rw [freePath, List.mem_filter, hsize]
  constructor
  · rintro ⟨hmem, hfree⟩
    obtain ⟨hx, hy⟩ := zigzag_bounds hmem
    rw [← isFunctionCell_iff h₁ h₂ s.ecl hx hy]
    exact ⟨⟨hx, hy⟩, by simpa using hfree⟩
  · rintro ⟨⟨hx, hy⟩, hfree⟩
    have hfn := mt (isFunctionCell_iff h₁ h₂ s.ecl hx hy).1 hfree
    refine ⟨mem_zigzag_of_ne hx hy fun h6 => ?_, by simpa using hfn⟩
    have htiming := (drawn_fixed (ecl := s.ecl) (k := 0) hx hy h₁).1
      (.inl ((drawn_timingDraws hx hy).2 (.inl h6)))
    refine hfree (mem_blockCells.2 ?_)
    obtain ⟨b, hb, hp⟩ := htiming
    exact ⟨b, List.mem_append_left _ hb, hp⟩

/-- The blocks lie in the symbol. -/
theorem blockCells_subset {v : Nat} (h₁ : 1 ≤ v) (h₂ : v ≤ 40) :
    blockCells (functionBlocks v) ⊆ Finset.range (sideLength v) ×ˢ Finset.range (sideLength v) := by
  have hside : sideLength v = 4 * v + 17 := rfl
  rintro ⟨x, y⟩ hp
  obtain ⟨b, hb, hp⟩ := mem_blockCells.1 hp
  rw [Finset.mem_product, Finset.mem_range, Finset.mem_range]
  rcases List.mem_append.1 hb with hb | hb
  · have hcases := mem_fixedBlocks.1 ⟨b, hb, hp⟩
    rcases hcases with h | h | h | h | h <;> dsimp only <;> omega
  · rcases mem_versionedBlocks.1 ⟨b, hb, hp⟩ with h | h | ⟨hx, hy⟩ | ⟨hx, h⟩ | ⟨h, hy⟩
    · dsimp only
      omega
    · dsimp only
      omega
    · have := laterBands_bounds h₁ h₂ hx
      have := laterBands_bounds h₁ h₂ hy
      dsimp only
      omega
    · have := innerBands_bounds h₁ h₂ hx
      dsimp only
      omega
    · have := innerBands_bounds h₁ h₂ hy
      dsimp only
      omega

/-- The free cells on the path number `R(v)` (R43, R253). -/
theorem freePath_length {s : State} (hconf : Configured s) :
    (freePath s).length = s.rawBits.toNat := by
  have hcells : (freePath s).toFinset =
      (Finset.range s.size.toNat ×ˢ Finset.range s.size.toNat) \
        blockCells (functionBlocks s.version.toNat) := by
    ext ⟨x, y⟩
    rw [List.mem_toFinset, mem_freePath hconf, Finset.mem_sdiff, Finset.mem_product, Finset.mem_range,
      Finset.mem_range]
  obtain ⟨h₁, h₂, hsize, -, hraw, -⟩ := hconf
  have harea := card_functionBlocks h₁ h₂
  rw [← List.toFinset_card_of_nodup (freePath_nodup s), hcells, hsize,
    Finset.card_sdiff_of_subset (blockCells_subset h₁ h₂), Finset.card_product, Finset.card_range,
    hraw]
  omega

/-- On the path the free cells of the drawn matrix are those of `freePath`. -/
theorem filter_patterned {s : State} (hsize : s.size.toNat ≤ Config.maxSide) :
    ((zigzag s.size.toNat).filter fun p => !cell (patterned s).fn p.1 p.2) = freePath s := by
  refine List.filter_congr fun p hp => ?_
  obtain ⟨hx, hy⟩ := zigzag_bounds hp
  rw [patterned_fn hsize hx hy]

/-- A free cell is light before the data is placed (R255). -/
theorem patterned_mod {s : State} (hsize : s.size.toNat ≤ Config.maxSide) {x y : Nat}
    (hx : x < s.size.toNat) (hy : y < s.size.toNat)
    (hfree : isFunctionCell s.size.toNat s.version.toNat s.ecl x y = false) :
    cell (patterned s).mod x y = false := by
  rw [patterned, drawAll_mod_of_undrawn, clearSquare, cell_mapSquare,
    if_pos ⟨hx, hy, hx.trans_le hsize, hy.trans_le hsize⟩]
  rw [isFunctionCell_eq, List.any_eq_false] at hfree
  exact fun d hd => by simpa using hfree d hd

theorem placeData_freePath {s : State} (hsize : s.size.toNat ≤ Config.maxSide) {i : Nat}
    {p : Nat × Nat} (h : (freePath s)[i]? = some p) :
    cell (placeData s.size.toNat s.raw.toNat s.stream (patterned s)).1.fn p.1 p.2 = false ∧
    cell (placeData s.size.toNat s.raw.toNat s.stream (patterned s)).1.mod p.1 p.2 =
      (decide (i < 8 * s.raw.toNat) && streamBit s.stream i) := by
  have hmem := List.mem_of_getElem? h
  obtain ⟨hpath, hfree⟩ := List.mem_filter.1 hmem
  have hfree : isFunctionCell s.size.toNat s.version.toNat s.ecl p.1 p.2 = false := by
    simpa using hfree
  obtain ⟨hx, hy⟩ := zigzag_bounds hpath
  refine ⟨by rw [placeData_fn, patterned_fn hsize hx hy, hfree], ?_⟩
  rw [← filter_patterned hsize] at h
  rw [placeData, foldl_placeBit_mod (acc := (patterned s, 0)) _ _ (zigzag_nodup _) (fun q hq =>
      ⟨(zigzag_bounds hq).1.trans_le hsize, (zigzag_bounds hq).2.trans_le hsize⟩) h,
    patterned_mod hsize hx hy hfree, Nat.zero_add]
  by_cases hlt : i < 8 * s.raw.toNat <;> simp [hlt]

/-- There are free cells for the whole stream, so the assertion of R256 holds. -/
theorem placeData_complete {s : State} (hconf : Configured s) :
    (placeData s.size.toNat s.raw.toNat s.stream (patterned s)).2 = 8 * s.raw.toNat := by
  have hfree : ((zigzag s.size.toNat).countP fun p => !cell (patterned s).fn p.1 p.2) =
      s.rawBits.toNat := by
    rw [List.countP_eq_length_filter, filter_patterned hconf.size_le, freePath_length hconf]
  obtain ⟨-, -, -, -, hrawBits, hraw, -⟩ := hconf
  rw [placeData_count, hfree]
  omega

/-- PLACE in INTERLEAVED completes (R255). -/
theorem exec_place {s : State} (hphase : s.phase = .interleaved) (hconf : Configured s) :
    exec .place s = .next { s with
      matrix := (placeData s.size.toNat s.raw.toNat s.stream (patterned s)).1
      phase := .placed } := by
  refine (exec_eq_command (i := .place) rfl s).trans (command_ok (by simp [hphase]) ?_)
  unfold placeBody
  rw [if_neg (not_not.2 hphase)]
  exact if_neg (not_not.2 (placeData_complete hconf))

/-- Settles O44: the path visits each free cell once, so the i-th takes stream bit i; with the
function cells counted block by block, as many are left as R43 says. -/
theorem placeFillsFreeCellsInZigzagOrder : Obligations.PlaceFillsFreeCellsInZigzagOrder := by
  intro s t hphase hconf h
  rw [exec_place hphase hconf] at h
  cases h
  exact ⟨freePath_length hconf, fun i p hp => placeData_freePath hconf.size_le hp⟩

end Sys2Proof.Machine
end

section
/-! PROOFS. Host accesses to the register window: the ones QRC ignores, what a read leaves alone, the
two readback windows, and what happens outside the window (spec/20_memory.md R80 to R87). -/

namespace Sys2Proof.Machine

open Sys2Proof.Laws

/-! ### An access inside and outside the window -/

theorem hostEvent_read_of_lt {off : Nat} (width : Nat) (s : State) (h : off < Config.windowBytes) :
    hostEvent (.read off width) s = .next { s with readData := some (busRead off width s) } :=
  if_pos h

theorem hostEvent_write_of_lt {off : Nat} (width : Nat) (v : Word) (s : State)
    (h : off < Config.windowBytes) : hostEvent (.write off width v) s = busWrite off width v s :=
  if_pos h

theorem hostEvent_read_of_ge {off : Nat} (width : Nat) (s : State) (h : Config.windowBytes ≤ off) :
    hostEvent (.read off width) s = .fault .outsideWindow :=
  if_neg (Nat.not_lt.mpr h)

theorem hostEvent_write_of_ge {off : Nat} (width : Nat) (v : Word) (s : State)
    (h : Config.windowBytes ≤ off) : hostEvent (.write off width v) s = .fault .outsideWindow :=
  if_neg (Nat.not_lt.mpr h)

theorem step_of_no_pending {s : State} (h : s.pending = []) : step s = .next s := by
  rw [step, nextEvent, h]

/-- Settles O13: the two outcomes of the window's bound, and the wait of `nextEvent`. -/
theorem noEventWaitsAndOutsideAccessStops : Obligations.NoEventWaitsAndOutsideAccessStops :=
  fun _ => ⟨step_of_no_pending,
    fun _ width _ hoff hp => (step_of_pending hp).trans (hostEvent_read_of_ge width _ hoff),
    fun _ width v _ hoff hp => (step_of_pending hp).trans (hostEvent_write_of_ge width v _ hoff)⟩

/-! ### Reads -/

/-- No register shows the events still to come. -/
theorem readReg_pending (s : State) (rest : List HostEvent) (r : Reg) :
    readReg { s with pending := rest } r = readReg s r := by
  cases r <;> rfl

theorem busRead_pending (off width : Nat) (s : State) (rest : List HostEvent) :
    busRead off width { s with pending := rest } = busRead off width s := by
  unfold busRead
  cases registerAt off with
  | none => rfl
  | some r => simp only [readReg_pending]

/-- Settles O8: the word of the read is that of the state before its event was taken off the list. -/
theorem readsHaveNoSideEffect : Obligations.ReadsHaveNoSideEffect := by
  intro s off width rest hoff hp
  rw [step_of_pending hp, hostEvent_read_of_lt width _ hoff, busRead_pending]

/-! ### Accesses QRC does not admit -/

theorem admitted_eq_false {off width : Nat} (h : width ≠ 4 ∨ off % 4 ≠ 0) :
    admitted off width = false := by
  rw [admitted, Bool.and_eq_false_iff, beq_eq_false_iff_ne, beq_eq_false_iff_ne]
  exact h

theorem busRead_of_not_admitted {off width : Nat} (s : State) (h : admitted off width = false) :
    busRead off width s = 0 := by
  rw [busRead, h, if_neg Bool.false_ne_true]

theorem busWrite_of_not_admitted {off width : Nat} (v : Word) (s : State)
    (h : admitted off width = false) : busWrite off width v s = .next s := by
  rw [busWrite, h, if_neg Bool.false_ne_true]

/-- Settles O6: neither the read nor the write of an access that is not admitted reaches a register. -/
theorem unadmittedAccessesAreIgnored : Obligations.UnadmittedAccessesAreIgnored := by
  intro s off width rest hoff h
  have hadm := admitted_eq_false h
  refine ⟨fun v hp => ?_, fun hp => ?_⟩
  · rw [step_of_pending hp, hostEvent_write_of_lt width v _ hoff, busWrite_of_not_admitted v _ hadm]
  · rw [readsHaveNoSideEffect s off width rest hoff hp, busRead_of_not_admitted s hadm]

/-! ### The readback windows -/

theorem modDataWord_toNat (s : State) :
    (modDataWord s).toNat =
      (if s.phase = .done ∧ s.modX.toNat < s.size.toNat ∧ s.modY.toNat < s.size.toNat then
        2 * (cell s.matrix.fn s.modX.toNat s.modY.toNat).toNat +
          (cell s.matrix.mod s.modX.toNat s.modY.toNat).toNat
      else 0) := by
  by_cases hopen : s.phase = .done ∧ s.modX.toNat < s.size.toNat ∧ s.modY.toNat < s.size.toNat
  · simp only [modDataWord, if_pos hopen]
    rw [append_toNat, zero_append_toNat, ofBool_toNat, ofBool_toNat]
    omega
  · simp only [modDataWord, if_neg hopen]
    rfl

theorem showsStream_iff (p : Phase) :
    p.showsStream = true ↔ p = .interleaved ∨ p = .placed ∨ p = .done := by
  cases p <;> decide

theorem cwDataWord_toNat (s : State) :
    (cwDataWord s).toNat =
      (if s.phase = .padded ∧ s.cwIdx.toNat < s.data.toNat then
        (entry s.dataCw s.cwIdx.toNat).toNat
      else if (s.phase = .interleaved ∨ s.phase = .placed ∨ s.phase = .done) ∧
          s.cwIdx.toNat < s.raw.toNat then
        (entry s.stream s.cwIdx.toNat).toNat
      else 0) := by
  have hbyte (b : Byte) : (b.setWidth 32).toNat = b.toNat :=
    BitVec.toNat_setWidth_of_le (by decide)
  simp only [← showsStream_iff]
  by_cases hpadded : s.phase = .padded ∧ s.cwIdx.toNat < s.data.toNat
  · simp only [cwDataWord, if_pos hpadded, hbyte]
  · by_cases hshown : s.phase.showsStream = true ∧ s.cwIdx.toNat < s.raw.toNat
    · simp only [cwDataWord, if_neg hpadded, if_pos hshown, hbyte]
    · simp only [cwDataWord, if_neg hpadded, if_neg hshown]
      rfl

/-- Settles O9: `MOD_DATA` and `CW_DATA` are at 0x064 and 0x06C and read as their window's word. -/
theorem readbackWindowsShowSymbolAndCodewords :
    Obligations.ReadbackWindowsShowSymbolAndCodewords :=
  fun s => ⟨modDataWord_toNat s, cwDataWord_toNat s⟩

end Sys2Proof.Machine
end

section
/-! PROOFS. Decoder and encoder are inverse to each other, and a word's opcode and reserved bits
decide which of the three cases of spec/30_encoding.md R111 it is. -/

namespace Sys2Proof.Machine

open Sys2Proof.Claims

/-! ### Fields of a word -/

/-- A field of a word, read off the word's value. -/
theorem extractLsb'_eq_of_toNat {m n : Nat} {w : BitVec m} {x : BitVec n} (start : Nat)
    (h : w.toNat / 2 ^ start % 2 ^ n = x.toNat) : w.extractLsb' start n = x := by
  refine BitVec.eq_of_toNat_eq ?_
  rw [BitVec.extractLsb'_toNat, Nat.shiftRight_eq_div_pow, h]

theorem extractLsb'_eq_zero_of_toNat {m n : Nat} {w : BitVec m} (start : Nat)
    (h : w.toNat / 2 ^ start % 2 ^ n = 0) : w.extractLsb' start n = 0 :=
  extractLsb'_eq_of_toNat start (h.trans (by simp))

theorem getLsbD_toNat {m : Nat} (w : BitVec m) (i : Nat) :
    (w.getLsbD i).toNat = w.toNat / 2 ^ i % 2 := by
  rw [BitVec.getLsbD, Nat.toNat_testBit]

/-- A one-bit field, read off the word's value. -/
theorem getLsbD_eq_of_toNat {m : Nat} {w : BitVec m} {b : Bool} (i : Nat)
    (h : w.toNat / 2 ^ i % 2 = b.toNat) : w.getLsbD i = b := by
  rw [← getLsbD_toNat] at h
  cases b <;> simpa using h

/-- A field is 0 exactly where the word has no bit of the field's mask. -/
theorem extractLsb'_eq_zero_iff {m : Nat} (w : BitVec m) (start n : Nat) :
    w.extractLsb' start n = 0 ↔ w.toNat &&& (2 ^ n - 1) <<< start = 0 := by
  have hmask : w.toNat &&& (2 ^ n - 1) <<< start = (w.extractLsb' start n).toNat <<< start := by
    refine Nat.eq_of_testBit_eq fun i => ?_
    rw [BitVec.extractLsb'_toNat]
    simp only [Nat.testBit_and, Nat.testBit_shiftLeft, Nat.testBit_two_pow_sub_one,
      Nat.testBit_mod_two_pow, Nat.testBit_shiftRight]
    by_cases hi : start ≤ i
    · simp [hi, Bool.and_comm]
    · simp [hi]
  rw [hmask, Nat.shiftLeft_eq_zero_iff, BitVec.toNat_eq]
  rfl

theorem opcodeOf_encode (i : Instr) : opcodeOf (encode i) = i.opcode :=
  BitVec.extractLsb'_append_eq_left

theorem opcodeOf_toNat (w : Word) : (opcodeOf w).toNat = w.toNat / 2 ^ 24 := by
  rw [opcodeOf, BitVec.extractLsb'_toNat, Nat.shiftRight_eq_div_pow]
  omega

/-- The value of every command word (`Laws.CommandWord`). -/
theorem commandWord (i : Instr) : Laws.CommandWord.Statement i :=
  match i with
  | .nop a => Laws.CommandWord.nop a
  | .softReset a => Laws.CommandWord.softReset a
  | .config f a m e v => Laws.CommandWord.config f a m e v
  | .appendBits n => Laws.CommandWord.appendBits n
  | .saHeader p c i => Laws.CommandWord.saHeader p c i
  | .eci v => Laws.CommandWord.eci v
  | .segBegin c m => Laws.CommandWord.segBegin c m
  | .put c => Laws.CommandWord.put c
  | .finish => Laws.CommandWord.finish
  | .ecc => Laws.CommandWord.ecc
  | .place => Laws.CommandWord.place
  | .mask => Laws.CommandWord.mask
  | .run => Laws.CommandWord.run

@[simp] theorem levelOfCode_code (e : Level) : Level.ofCode e.code = e := by
  cases e <;> rfl

@[simp] theorem modeOfCode_code (m : Mode) : Mode.ofCode m.code = m := by
  cases m <;> rfl

@[simp] theorem code_levelOfCode : ∀ c : BitVec 2, (Level.ofCode c).code = c := by
  decide

@[simp] theorem code_modeOfCode : ∀ c : BitVec 2, (Mode.ofCode c).code = c := by
  decide

/-! ### From an instruction to its word and back -/

theorem unlessReserved_zero {n : Nat} (i : Instr) : unlessReserved (0 : BitVec n) i = .ok i :=
  if_pos rfl

/-- Each operand is the field of the word that its format gives it, and the reserved field is 0. -/
theorem decode_encode (i : Instr) : decode (encode i) = .ok i := by
  obtain ⟨hword, hfield⟩ := commandWord i
  rw [hfield] at hword
  have hop := opcodeOf_encode i
  generalize encode i = w at hword hop ⊢
  unfold decode
  rw [hop]
  cases i <;> simp only [Instr.opcode, BitVec.toNat_ofNat] at hword ⊢
  case nop a =>
    have ha : w.extractLsb' 0 24 = a := extractLsb'_eq_of_toNat 0 (by omega)
    rw [ha]
  case softReset a =>
    have ha : w.extractLsb' 0 24 = a := extractLsb'_eq_of_toNat 0 (by omega)
    rw [ha]
  case config f a m e v =>
    have hbit := a.toNat_lt
    have hzero : w.extractLsb' 14 10 = 0 := extractLsb'_eq_zero_of_toNat 14 (by omega)
    have hf : w.extractLsb' 12 2 = f := extractLsb'_eq_of_toNat 12 (by omega)
    have ha : w.getLsbD 11 = a := getLsbD_eq_of_toNat 11 (by omega)
    have hm : w.extractLsb' 8 3 = m := extractLsb'_eq_of_toNat 8 (by omega)
    have he : w.extractLsb' 6 2 = e.code := extractLsb'_eq_of_toNat 6 (by omega)
    have hv : w.extractLsb' 0 6 = v := extractLsb'_eq_of_toNat 0 (by omega)
    rw [hzero, hf, ha, hm, he, hv, levelOfCode_code, unlessReserved_zero]
  case appendBits n =>
    have hzero : w.extractLsb' 6 18 = 0 := extractLsb'_eq_zero_of_toNat 6 (by omega)
    have hn : w.extractLsb' 0 6 = n := extractLsb'_eq_of_toNat 0 (by omega)
    rw [hzero, hn, unlessReserved_zero]
  case saHeader p c i =>
    have hzero : w.extractLsb' 17 7 = 0 := extractLsb'_eq_zero_of_toNat 17 (by omega)
    have hp : w.extractLsb' 9 8 = p := extractLsb'_eq_of_toNat 9 (by omega)
    have hc : w.extractLsb' 4 5 = c := extractLsb'_eq_of_toNat 4 (by omega)
    have hi : w.extractLsb' 0 4 = i := extractLsb'_eq_of_toNat 0 (by omega)
    rw [hzero, hp, hc, hi, unlessReserved_zero]
  case eci v =>
    have hzero : w.extractLsb' 20 4 = 0 := extractLsb'_eq_zero_of_toNat 20 (by omega)
    have hv : w.extractLsb' 0 20 = v := extractLsb'_eq_of_toNat 0 (by omega)
    rw [hzero, hv, unlessReserved_zero]
  case segBegin c m =>
    have hzero : w.extractLsb' 2 6 = 0 := extractLsb'_eq_zero_of_toNat 2 (by omega)
    have hc : w.extractLsb' 8 16 = c := extractLsb'_eq_of_toNat 8 (by omega)
    have hm : w.extractLsb' 0 2 = m.code := extractLsb'_eq_of_toNat 0 (by omega)
    rw [hzero, hc, hm, modeOfCode_code, unlessReserved_zero]
  case put c =>
    have hzero : w.extractLsb' 16 8 = 0 := extractLsb'_eq_zero_of_toNat 16 (by omega)
    have hc : w.extractLsb' 0 16 = c := extractLsb'_eq_of_toNat 0 (by omega)
    rw [hzero, hc, unlessReserved_zero]
  all_goals
    have hzero : w.extractLsb' 0 24 = 0 := extractLsb'_eq_zero_of_toNat 0 (by omega)
    rw [hzero, unlessReserved_zero]

/-- Settles O1: `decode_encode`. -/
theorem decodeOfEncodeIsTheInstruction : Obligations.DecodeOfEncodeIsTheInstruction :=
  decode_encode

/-! ### What the decoder can answer -/

/-- The three cases of R111, with the decoder's answer in each. -/
inductive WordCase (w : Word) : Except DecodeError Instr → Prop
  | command {i : Instr} {mask : Nat} (hassigned : reservedMask (opcodeOf w).toNat = some mask)
      (hreserved : w.toNat &&& mask = 0) (hword : encode i = w) : WordCase w (.ok i)
  | reservedBits {mask : Nat} (hassigned : reservedMask (opcodeOf w).toNat = some mask)
      (hreserved : w.toNat &&& mask ≠ 0) : WordCase w (.error .reservedBits)
  | unassigned (hunassigned : reservedMask (opcodeOf w).toNat = none) :
      WordCase w (.error .unassignedOpcode)

theorem encode_eq_of_toNat {w : Word} {i : Instr} (hop : (opcodeOf w).toNat = i.opcode.toNat)
    (hfield : w.toNat % 2 ^ 24 = i.operandField.toNat) : encode i = w := by
  refine BitVec.eq_of_toNat_eq ?_
  rw [opcodeOf_toNat] at hop
  rw [(commandWord i).1, ← hop, ← hfield]
  exact Nat.div_add_mod' _ _

/-- An assigned opcode whose format reserves one field. -/
theorem wordCase_unlessReserved {w : Word} {i : Instr} {start n mask : Nat}
    (hop : (opcodeOf w).toNat = i.opcode.toNat)
    (hassigned : reservedMask i.opcode.toNat = some mask)
    (hmask : (2 ^ n - 1) <<< start = mask)
    (hfield : w.toNat / 2 ^ start % 2 ^ n = 0 → w.toNat % 2 ^ 24 = i.operandField.toNat) :
    WordCase w (unlessReserved (w.extractLsb' start n) i) := by
  rw [← hop] at hassigned
  have hiff := hmask ▸ extractLsb'_eq_zero_iff w start n
  by_cases hr : w.extractLsb' start n = 0
  · have hzero : w.toNat / 2 ^ start % 2 ^ n = 0 := by
      rw [← Nat.shiftRight_eq_div_pow, ← BitVec.extractLsb'_toNat, hr]
      rfl
    rw [hr, unlessReserved_zero]
    exact .command hassigned (hiff.1 hr) (encode_eq_of_toNat hop (hfield hzero))
  · rw [unlessReserved, if_neg hr]
    exact .reservedBits hassigned (mt hiff.2 hr)

/-- The operands the decoder reads make up the operand field, where the reserved bits are 0. -/
theorem wordCase_decode (w : Word) : WordCase w (decode w) := by
  unfold decode
  split
  case h_1 hop | h_2 hop =>
    refine .command (by rw [hop]; rfl) (Nat.and_zero _) (encode_eq_of_toNat hop ?_)
    rw [(commandWord _).2]
    simp only [BitVec.extractLsb'_toNat]
    omega
  case h_14 =>
    refine .unassigned ?_
    unfold reservedMask
    split
    case h_14 => rfl
    all_goals contradiction
  all_goals
    rename_i hop
    refine wordCase_unlessReserved hop rfl rfl fun hzero => ?_
    rw [(commandWord _).2]
    simp only [BitVec.extractLsb'_toNat, Nat.shiftRight_eq_div_pow, getLsbD_toNat, code_levelOfCode,
      code_modeOfCode]
    omega

/-- Settles O2: only the first case of a word is an instruction (`WordCase`). -/
theorem encodeOfDecodeIsTheWord : Obligations.EncodeOfDecodeIsTheWord := by
  intro w i h
  have hcase := wordCase_decode w
  rw [h] at hcase
  cases hcase with
  | command _ _ hword => exact hword

/-! ### What the three cases do -/

/-- The opcode of a word that decodes is that of its instruction. -/
theorem opcode_of_decode {w : Word} {i : Instr} (h : decode w = .ok i) : i.opcode = opcodeOf w := by
  rw [← encodeOfDecodeIsTheWord w i h, opcodeOf_encode]

theorem commandStep_of_undecoded {w : Word} {e : DecodeError} {s : State} (h : decode w = .error e)
    (hs : s.phase ≠ .error) :
    commandStep w s = .next (errorEntry .invalidArgument (opcodeOf w) s) := by
  rw [commandStep_of_decode_error h, command_error hs rfl]

/-- In ERROR the core ignores every word but SOFT_RESET's (R323). -/
theorem commandStep_in_error {w : Word} {s : State} (hs : s.phase = .error)
    (hw : opcodeOf w ≠ 0x01) : commandStep w s = .next s := by
  rcases commandStep_cases w s with ⟨i, hi, he⟩ | ⟨_, _, _, he⟩ | ⟨_, _, hne, _⟩
  · rw [he]
    rcases exec_cases i s with ⟨h, _⟩ | ⟨⟨a, rfl⟩, _⟩ | ⟨_, _, _, hne, _⟩ | ⟨_, _, _, hne, _⟩
    · exact h
    · exact absurd (opcode_of_decode hi).symm hw
    · exact absurd hs hne
    · exact absurd hs hne
  · exact he
  · exact absurd hs hne

/-- The unassigned opcodes (R112). -/
theorem reservedMask_eq_none_iff {op : Nat} (h : op < 256) :
    reservedMask op = none ↔
      (0x02 ≤ op ∧ op ≤ 0x0F) ∨ (0x11 ≤ op ∧ op ≤ 0x1F) ∨ (0x25 ≤ op ∧ op ≤ 0x2F) ∨
        (0x34 ≤ op ∧ op ≤ 0x3E) ∨ (0x40 ≤ op ∧ op ≤ 0xFF) := by
  unfold reservedMask
  split
  case h_14 =>
    simp only [imp_false, true_iff] at *
    omega
  all_goals simp

/-- Settles O3: the three cases of a word (`WordCase`), and what a write of it to `CMD` does in
each. -/
theorem everyWordIsACommandOrFails : Obligations.EveryWordIsACommandOrFails := by
  refine ⟨fun w s => ⟨?_, commandStep_in_error⟩, fun op => reservedMask_eq_none_iff⟩
  have hcase := wordCase_decode w
  generalize hd : decode w = d at hcase
  cases hcase with
  | command hassigned hreserved _ =>
    rw [hassigned]
    simp only [if_pos hreserved]
    exact ⟨_, rfl, opcode_of_decode hd, commandStep_of_decode_ok hd s⟩
  | reservedBits hassigned hreserved =>
    rw [hassigned]
    simp only [if_neg hreserved]
    exact ⟨trivial, commandStep_of_undecoded hd⟩
  | unassigned hunassigned =>
    rw [hunassigned]
    exact ⟨rfl, commandStep_of_undecoded hd⟩

/-- Settles O4: each word is computed through the decoder. -/
theorem exampleWordsDecodeToTheirCommands : Obligations.ExampleWordsDecodeToTheirCommands :=
  ⟨rfl, rfl, rfl, rfl, rfl, rfl⟩

end Sys2Proof.Machine
end

section
/-! PROOFS. An operand outside its format's legal values makes the command's body fail
(spec/30_encoding.md R104 to R107, spec/60_exceptions.md R321). -/

namespace Sys2Proof.Machine

/-- A guard that fails with *InvalidArgument* before a body that fails with it. -/
theorem guard_invalid {c : Prop} [Decidable c] {x : Except ErrCode State}
    (hx : ¬c → x = .error .invalidArgument) :
    (if c then .error .invalidArgument else x) = .error .invalidArgument := by
  by_cases hc : c
  · exact if_pos hc
  · rw [if_neg hc, hx hc]

theorem fnc1OfCode_eq_none {f : BitVec 2} (h : legalFnc1 f = false) : fnc1OfCode f = none := by
  revert f
  decide

theorem configBody_illegal {f : BitVec 2} {auto : Bool} {id : BitVec 3} {e : Level} {v : BitVec 6}
    (s : State) (h : (legalVersion v && legalFnc1 f) = false) :
    configBody f auto id e v s = .error .invalidArgument := by
  refine guard_invalid fun _ => guard_invalid fun hversion => ?_
  have hlegal : legalVersion v = true := by
    simp only [legalVersion, Bool.and_eq_true, decide_eq_true_eq]
    omega
  rw [hlegal, Bool.true_and] at h
  rw [fnc1OfCode_eq_none h]

theorem appendBitsBody_illegal {n : BitVec 6} (s : State) (h : legalBitCount n = false) :
    appendBitsBody n s = .error .invalidArgument := by
  have hn : n.toNat > 31 := by simpa [legalBitCount] using h
  exact guard_invalid fun _ => guard_invalid fun hfits => absurd (.inl hn) hfits

theorem saHeaderBody_illegal {p : BitVec 8} {c : BitVec 5} {i : BitVec 4} (s : State)
    (h : (legalSymbolCount c && legalSymbolIndex i c) = false) :
    saHeaderBody p c i s = .error .invalidArgument := by
  have hrange : ¬(i.toNat < c.toNat ∧ c.toNat ≤ 16) := by
    simp only [legalSymbolCount, legalSymbolIndex, Bool.and_eq_false_iff,
      decide_eq_false_iff_not] at h
    omega
  exact guard_invalid fun _ => guard_invalid fun _ => if_pos hrange

theorem eciBody_illegal {v : BitVec 20} (s : State) (h : legalEci v = false) :
    eciBody v s = .error .invalidArgument := by
  have hv : v.toNat > 999999 := by simpa [legalEci] using h
  exact guard_invalid fun _ => if_pos hv

/-- Only four formats have illegal values: every other command is well formed. -/
theorem body_of_illegal {i : Instr} (hi : i.wellFormed = false) :
    ∃ b, commandBody i = some b ∧ ∀ s, b s = .error .invalidArgument := by
  cases i with
  | config f auto id e v => exact ⟨_, rfl, fun s => configBody_illegal s hi⟩
  | appendBits n => exact ⟨_, rfl, fun s => appendBitsBody_illegal s hi⟩
  | saHeader p c i => exact ⟨_, rfl, fun s => saHeaderBody_illegal s hi⟩
  | eci v => exact ⟨_, rfl, fun s => eciBody_illegal s hi⟩
  | _ => cases hi

/-- Settles O23: the body of a command with an illegal operand fails in every state. -/
theorem illegalOperandsFail : Obligations.IllegalOperandsFail := by
  intro i s hi hs
  obtain ⟨b, hb, hfails⟩ := body_of_illegal hi
  rw [exec_eq_command hb, command_error hs (hfails s)]

end Sys2Proof.Machine
end

section
/-! PROOFS. The assembler's lines (spec/30_encoding.md R114, R115): the steps on the accesses a line
stands for. -/

namespace Sys2Proof.Machine

open Sys2Proof.Claims

/-! ### Commands of a segment do not look at the events to come -/

/-- A state with other host events to come. -/
def withPending (p : List HostEvent) (s : State) : State := { s with pending := p }

theorem withPending_self {p : List HostEvent} {s : State} (h : s.pending = p) :
    withPending p s = s := by
  rw [← h]
  rfl

theorem map_ite {c : Prop} [Decidable c] (f : State → State) (x y : Except ErrCode State) :
    f <$> (if c then x else y) = if c then f <$> x else f <$> y :=
  apply_ite _ _ _ _

theorem appendBits_withPending (value n : Nat) (p : List HostEvent) (s : State) :
    appendBits value n (withPending p s) = withPending p <$> appendBits value n s := by
  simp only [appendBits, map_ite]
  rfl

theorem emitFnc1_withPending (p : List HostEvent) (s : State) :
    emitFnc1 (withPending p s) = withPending p <$> emitFnc1 s := by
  have hfnc1 : (withPending p s).fnc1 = s.fnc1 := rfl
  unfold emitFnc1
  rw [hfnc1]
  cases fnc1Indicator s.fnc1 with
  | none => rfl
  | some indicator =>
    simp only [map_ite, appendBits_withPending, bind_map_left, map_bind]
    rfl

theorem segBeginBody_withPending (c : BitVec 16) (m : Mode) (p : List HostEvent) (s : State) :
    segBeginBody c m (withPending p s) = withPending p <$> segBeginBody c m s := by
  simp only [segBeginBody, map_ite, map_bind, appendBits_withPending, emitFnc1_withPending,
    bind_map_left]
  rfl

theorem segmentClose_withPending (p : List HostEvent) (s : State) :
    segmentClose (withPending p s) = withPending p <$> segmentClose s := by
  have hmode : (withPending p s).segMode = s.segMode := rfl
  have hheld : (withPending p s).pendN = s.pendN := rfl
  unfold segmentClose
  rw [hmode, hheld]
  cases flushWidth s.segMode s.pendN.toNat with
  | none => rfl
  | some w =>
    simp only [appendBits_withPending, bind_map_left, map_bind]
    rfl

theorem putValue_withPending (m : Mode) (v : Nat) (p : List HostEvent) (s : State) :
    putValue m v (withPending p s) = withPending p <$> putValue m v s := by
  cases m with
  | numeric =>
    simp only [putValue, numericPut, map_ite, appendBits_withPending, bind_map_left, map_bind]
    rfl
  | alphanumeric =>
    simp only [putValue, alnumPut, map_ite, appendBits_withPending, bind_map_left, map_bind]
    rfl
  | byte => exact appendBits_withPending v 8 p s
  | kanji => exact appendBits_withPending v 13 p s

theorem putBody_withPending (c : BitVec 16) (p : List HostEvent) (s : State) :
    putBody c (withPending p s) = withPending p <$> putBody c s := by
  have hmode : (withPending p s).segMode = s.segMode := rfl
  unfold putBody
  rw [hmode]
  cases charValue s.segMode c.toNat with
  | none =>
    simp only [map_ite]
    rfl
  | some v =>
    simp only [map_ite, map_bind, putValue_withPending, bind_map_left, ← segmentClose_withPending]
    rfl

/-- A command that does the same whatever host events are still to come. -/
def IgnoresPending (i : Instr) : Prop :=
  ∀ (p : List HostEvent) (s t : State),
    exec i s = .next t → exec i (withPending p s) = .next (withPending p t)

theorem ignoresPending_of_body {i : Instr} {b : State → Except ErrCode State}
    (hi : commandBody i = some b) (hb : ∀ p s, b (withPending p s) = withPending p <$> b s) :
    IgnoresPending i := by
  intro p s t h
  rw [exec_eq_command hi] at h ⊢
  rcases command_cases i.opcode b s with ⟨hs, he⟩ | ⟨hs, u, hu, he⟩ | ⟨hs, c, hc, he⟩ <;>
    rw [he] at h <;> cases h
  · exact command_in_error hs
  · exact command_ok hs (by rw [hb, hu]; rfl)
  · exact command_error (s := withPending p s) hs (by rw [hb, hc]; rfl)

theorem segBegin_ignoresPending (c : BitVec 16) (m : Mode) : IgnoresPending (.segBegin c m) :=
  ignoresPending_of_body rfl (segBeginBody_withPending c m)

theorem put_ignoresPending (c : BitVec 16) : IgnoresPending (.put c) :=
  ignoresPending_of_body rfl (putBody_withPending c)

/-! ### A line of commands -/

/-- The step on a command mnemonic's write is the command. -/
theorem step_of_pending_command {s : State} {i : Instr} {rest : List HostEvent}
    (h : s.pending = cmd i :: rest) : step s = exec i { s with pending := rest } :=
  (step_of_pending_cmd h).trans (commandStep_of_decode_ok (decode_encode i) _)

theorem run_succ {s t : State} (n : Nat) (h : step s = .next t) :
    Host.Core.run Sys2Proof.core (n + 1) s = Host.Core.run Sys2Proof.core n t := by
  have hstep : Sys2Proof.core.step s = .next t := h
  simp only [Host.Core.run, hstep]

theorem performAll_cons {i : Instr} {is : List Instr} {s t : State} (h : exec i s = .next t) :
    performAll (i :: is) s = performAll is t := by
  rw [performAll, h]

/-- As many steps as a line has commands perform them; the events after the line are still to come. -/
theorem run_commands {is : List Instr} (his : ∀ i ∈ is, IgnoresPending i) (s : State)
    (rest : List HostEvent) (hp : s.pending = is.map cmd ++ rest) :
    ∃ t, performAll is (withPending rest s) = some t ∧
      Host.Core.run Sys2Proof.core is.length s = .next t := by
  induction is generalizing s with
  | nil => exact ⟨s, congrArg some (withPending_self hp), rfl⟩
  | cons i is ih =>
    obtain ⟨hi, his⟩ := List.forall_mem_cons.1 his
    obtain ⟨u, hu⟩ := exec_next i (withPending rest s)
    have hback : withPending rest (withPending (is.map cmd ++ rest) u) = u :=
      withPending_self (commandsLeaveHostWrittenRegisters i _ u hu).1
    have hstep : step s = .next (withPending (is.map cmd ++ rest) u) :=
      (step_of_pending_command hp).trans (hi _ (withPending rest s) u hu)
    obtain ⟨t, hperform, hrun⟩ := ih his (withPending (is.map cmd ++ rest) u) rfl
    rw [hback] at hperform
    exact ⟨t, (performAll_cons hu).trans hperform, (run_succ _ hstep).trans hrun⟩

theorem pseudoSegment_eq (m : Mode) (chars : List (BitVec 16)) :
    pseudoSegment m chars =
      (.segBegin (BitVec.ofNat 16 chars.length) m :: chars.map .put : List Instr).map cmd := by
  rw [pseudoSegment, List.map_cons, List.map_map]
  rfl

theorem segment_line (s : State) (rest : List HostEvent) (m : Mode) (chars : List (BitVec 16))
    (hp : s.pending = pseudoSegment m chars ++ rest) :
    ∃ t, performAll (.segBegin (BitVec.ofNat 16 chars.length) m :: chars.map .put)
        { s with pending := rest } = some t ∧
      Host.Core.run Sys2Proof.core (chars.length + 1) s = .next t := by
  rw [pseudoSegment_eq] at hp
  have his : ∀ i ∈ (.segBegin (BitVec.ofNat 16 chars.length) m :: chars.map .put : List Instr),
      IgnoresPending i := by
    simp only [List.forall_mem_cons, List.forall_mem_map]
    exact ⟨segBegin_ignoresPending _ m, fun c _ => put_ignoresPending c⟩
  obtain ⟨t, hperform, hrun⟩ := run_commands his s rest hp
  rw [List.length_cons, List.length_map] at hrun
  exact ⟨t, hperform, hrun⟩

/-! ### The other lines: a write, then a command or a read -/

/-- `APPEND`: a write of `ARG`, then an APPEND_BITS. -/
theorem append_line (s : State) (rest : List HostEvent) (value : Word) (n : BitVec 6)
    (hp : s.pending = pseudoAppend value n ++ rest) :
    ∃ t, step s = .next t ∧
      step t = exec (.appendBits n) { s with arg := value, pending := rest } :=
  ⟨{ s with arg := value, pending := cmd (.appendBits n) :: rest }, step_of_pending hp,
    step_of_pending_command rfl⟩

theorem regOffset_lt (r : Reg) : r.offset < Config.windowBytes := by
  cases r with
  | pen k =>
    show 0x040 + 4 * k.val < 4096
    omega
  | _ => decide

theorem step_of_pending_rd {s : State} {r : Reg} {rest : List HostEvent}
    (hp : s.pending = rd r :: rest) :
    step s = .next { s with pending := rest, readData := some (busRead r.offset 4 s) } :=
  readsHaveNoSideEffect s r.offset 4 rest (regOffset_lt r) hp

/-- The coordinates the line puts together are those the register takes apart (R74). -/
theorem step_of_pending_modAddr {s : State} {x y : BitVec 8} {rest : List HostEvent}
    (hp : s.pending = wr .modAddr (0#16 ++ y ++ x) :: rest) :
    step s = .next { s with modX := x, modY := y, pending := rest } := by
  have hx : (0#16 ++ y ++ x).extractLsb' 0 8 = x := BitVec.extractLsb'_append_eq_right
  have hy : (0#16 ++ y ++ x).extractLsb' 8 8 = y :=
    (BitVec.extractLsb'_append_eq_of_le (Nat.le_refl 8)).trans BitVec.extractLsb'_append_eq_right
  have hwrite (u : State) : hostEvent (wr .modAddr (0#16 ++ y ++ x)) u =
      .next { u with
        modX := (0#16 ++ y ++ x).extractLsb' 0 8
        modY := (0#16 ++ y ++ x).extractLsb' 8 8 } := rfl
  rw [step_of_pending hp, hwrite, hx, hy]

theorem step_of_pending_cwAddr {s : State} {i : BitVec 12} {rest : List HostEvent}
    (hp : s.pending = wr .cwAddr (0#20 ++ i) :: rest) :
    step s = .next { s with cwIdx := i, pending := rest } := by
  have hi : (0#20 ++ i).extractLsb' 0 12 = i := BitVec.extractLsb'_append_eq_right
  have hwrite (u : State) : hostEvent (wr .cwAddr (0#20 ++ i)) u =
      .next { u with cwIdx := (0#20 ++ i).extractLsb' 0 12 } := rfl
  rw [step_of_pending hp, hwrite, hi]

/-- `READ_MODULE`: inside the symbol of a finished run `MOD_DATA` shows the cell (R86). -/
theorem readModule_line (s : State) (rest : List HostEvent) (x y : BitVec 8)
    (hp : s.pending = pseudoReadModule x y ++ rest) (hdone : s.phase = .done)
    (hx : x.toNat < s.size.toNat) (hy : y.toNat < s.size.toNat) :
    ∃ t, step s = .next t ∧ step t = .next { s with
      modX := x
      modY := y
      pending := rest
      readData := some (BitVec.ofNat 32 (2 * (cell s.matrix.fn x.toNat y.toNat).toNat +
        (cell s.matrix.mod x.toNat y.toNat).toNat)) } := by
  refine ⟨_, step_of_pending_modAddr hp, ?_⟩
  have hword := modDataWord_toNat { s with modX := x, modY := y, pending := rd .modData :: rest }
  rw [if_pos ⟨hdone, hx, hy⟩] at hword
  rw [← hword, BitVec.ofNat_toNat, BitVec.setWidth_eq]
  exact step_of_pending_rd (r := .modData) (rest := rest) rfl

/-- `READ_CW`: the window shows the same whatever events are still to come. -/
theorem readCw_line (s : State) (rest : List HostEvent) (i : BitVec 12)
    (hp : s.pending = pseudoReadCw i ++ rest) :
    ∃ t, step s = .next t ∧ step t = .next { s with
      cwIdx := i
      pending := rest
      readData := some (busRead 0x06C 4 { s with cwIdx := i }) } := by
  refine ⟨_, step_of_pending_cwAddr hp, ?_⟩
  rw [← busRead_pending 0x06C 4 { s with cwIdx := i } (rd .cwData :: rest)]
  exact step_of_pending_rd (r := .cwData) (rest := rest) rfl

/-- Settles O14: its four lines, one lemma each. -/
theorem assemblerLinesDoWhatTheyStandFor : Obligations.AssemblerLinesDoWhatTheyStandFor :=
  fun s rest => ⟨append_line s rest, readModule_line s rest, readCw_line s rest,
    fun mode chars _ => segment_line s rest mode chars⟩

end Sys2Proof.Machine
end

section
/-! PROOFS. The registers a host writes (spec/40_control.md R134 to R138), NOP (R131) and CONFIG
(R133). -/

namespace Sys2Proof.Machine

/-! ### Writes of the host -/

/-- A field of a register as the bits of the word's value. -/
theorem extractLsb'_eq_ofNat {m : Nat} (w : BitVec m) (start n : Nat) :
    w.extractLsb' start n = BitVec.ofNat n (w.toNat / 2 ^ start % 2 ^ n) :=
  extractLsb'_eq_of_toNat start (by simp)

/-- Settles O10: `writeReg` takes the fields of the word as bit ranges. -/
theorem hostWritesUpdateTheirRegister : Obligations.HostWritesUpdateTheirRegister := by
  intro s w rest
  have hlow (n : Nat) : w.extractLsb' 0 n = BitVec.ofNat n (w.toNat % 2 ^ n) := by
    simpa using extractLsb'_eq_ofNat w 0 n
  refine ⟨fun hp => step_of_pending hp, fun hp => ?_, fun hp => ?_⟩
  · rw [step_of_pending hp, ← hlow 8, ← extractLsb'_eq_ofNat w 8 8]
    rfl
  · rw [step_of_pending hp, ← hlow 12]
    rfl

/-- A register is found at its own offset only (R58). -/
theorem registerAt_offset {off : Nat} {r : Reg} (h : registerAt off = some r) : off = r.offset := by
  unfold registerAt at h
  split at h <;> cases h <;> rfl

theorem writeReg_of_readOnly {r : Reg} (v : Word) (s : State) (hcmd : r ≠ .cmd) (harg : r ≠ .arg)
    (hmod : r ≠ .modAddr) (hcw : r ≠ .cwAddr) : writeReg r v s = .next s := by
  cases r with
  | cmd => exact absurd rfl hcmd
  | arg => exact absurd rfl harg
  | modAddr => exact absurd rfl hmod
  | cwAddr => exact absurd rfl hcw
  | _ => rfl

/-- Settles O11: a word at such an offset is not admitted, at no register, or at one that takes no
write. -/
theorem otherWritesAreIgnored : Obligations.OtherWritesAreIgnored := by
  intro s off w rest hoff hcmd harg hmod hcw hp
  rw [step_of_pending hp, hostEvent_write_of_lt 4 w _ hoff]
  by_cases hadm : admitted off 4
  · rw [busWrite, if_pos hadm]
    cases hr : registerAt off with
    | none => rfl
    | some r =>
      have hne (r' : Reg) (h : off ≠ r'.offset) : r ≠ r' := by
        rintro rfl
        exact h (registerAt_offset hr)
      exact writeReg_of_readOnly w _ (hne .cmd hcmd) (hne .arg harg) (hne .modAddr hmod)
        (hne .cwAddr hcw)
  · exact busWrite_of_not_admitted w _ (by simpa using hadm)

/-! ### NOP and CONFIG -/

/-- Settles O16: the word is NOP's encoding, and `execNop` answers the state. -/
theorem nopChangesNothing : Obligations.NopChangesNothing :=
  fun a _ => ⟨decode_encode (.nop a), rfl⟩

/-- Every code but 3 names an FNC1 setting (R38). -/
theorem fnc1OfCode_of_ne : ∀ f : BitVec 2, f ≠ 3 →
    fnc1OfCode f = some (if f = 0 then .absent else if f = 1 then .first else .second) := by
  decide

theorem configBody_legal {f : BitVec 2} (auto : Bool) (id : BitVec 3) (e : Level) {v : BitVec 6}
    {s : State} (hphase : s.phase = .idle) (h₁ : 1 ≤ v.toNat) (h₂ : v.toNat ≤ 40) (hf : f ≠ 3) :
    configBody f auto id e v s = .ok (latchConfig
      (if f = 0 then .absent else if f = 1 then .first else .second) auto id e v s) := by
  rw [configBody, if_neg (not_not.2 hphase), if_neg (by omega), fnc1OfCode_of_ne f hf]

/-- Settles O17: the body succeeds on legal operands in IDLE only, and what it latches is the
geometry, no element cut off (`latchConfig_configured`). -/
theorem configLatchesConfigurationAndGeometry :
    Obligations.ConfigLatchesConfigurationAndGeometry := by
  intro f auto id e v s hs
  rw [exec_eq_command (i := .config f auto id e v) rfl]
  split
  · next h =>
    obtain ⟨hphase, h₁, h₂, hf⟩ := h
    have hconf := latchConfig_configured
      (if f = 0 then .absent else if f = 1 then .first else .second) auto id e s h₁ h₂
    refine ⟨_, command_ok hs (configBody_legal auto id e hphase h₁ h₂ hf), hconf, ?_⟩
    obtain ⟨-, -, -, -, hrawBits, hraw, hblocks, hecc, -⟩ := hconf
    rw [hrawBits, hraw, hblocks, hecc]
    rfl
  · next h =>
    refine command_error hs (guard_invalid fun hphase => guard_invalid fun hversion => ?_)
    obtain rfl : f = 3 := by
      by_contra hf
      exact h ⟨not_not.1 hphase, by omega, by omega, hf⟩
    rfl

end Sys2Proof.Machine
end

section
/-! PROOFS. RUN against the four commands it stands for (spec/40_control.md R140). -/

namespace Sys2Proof.Machine

/-- A command that does not end in ERROR is its body, which succeeded. -/
theorem body_of_exec {i : Instr} {b : State → Except ErrCode State} {s t : State}
    (hb : commandBody i = some b) (h : exec i s = .next t) (ht : t.phase ≠ .error) : b s = .ok t := by
  rw [exec_eq_command hb] at h
  rcases command_cases i.opcode b s with ⟨hs, he⟩ | ⟨-, u, hu, he⟩ | ⟨-, c, -, he⟩ <;>
    rw [he] at h <;> cases h
  · exact absurd hs ht
  · exact hu
  · exact absurd rfl ht

/-- A command that ends in ERROR from another phase is its body, which failed with the recorded
code. -/
theorem body_error_of_exec {i : Instr} {b : State → Except ErrCode State} {s t : State}
    (hb : commandBody i = some b) (hs : s.phase ≠ .error) (h : exec i s = .next t)
    (ht : t.phase = .error) : b s = .error t.err := by
  rw [exec_eq_command hb] at h
  rcases command_cases i.opcode b s with ⟨hs', -⟩ | ⟨-, u, hu, he⟩ | ⟨-, c, hc, he⟩
  · exact absurd hs' hs
  · rw [he] at h
    cases h
    exact absurd ht (body_phase_ne hb hu).2.2
  · rw [he] at h
    cases h
    exact hc

theorem runBody_of_bodies {s a b c t : State} (ha : finishBody s = .ok a) (hb : eccBody a = .ok b)
    (hc : placeBody b = .ok c) (hd : maskBody c = .ok t) : runBody s = .ok t :=
  bind_ok.2 ⟨a, ha, bind_ok.2 ⟨b, hb, bind_ok.2 ⟨c, hc, hd⟩⟩⟩

theorem exec_run_ok {s t : State} (hs : s.phase ≠ .error) (h : runBody s = .ok t) :
    exec .run s = .next t :=
  (exec_eq_command (i := .run) rfl s).trans (command_ok hs h)

theorem exec_run_error {s : State} {c : ErrCode} (hs : s.phase ≠ .error)
    (h : runBody s = .error c) : exec .run s = .next (errorEntry c 0x3F s) :=
  (exec_eq_command (i := .run) rfl s).trans (command_error hs h)

/-- The state ECC leaves (R229). -/
def streamedState (s : State) : State :=
  { s with
    stream := overwrite s.stream (codewordStream s.blocks.toNat s.eccLen.toNat s.raw.toNat
      (entries s.data.toNat s.dataCw))
    phase := .interleaved }

/-- ECC succeeds in PADDED. -/
theorem eccBody_padded {s : State} (h : s.phase = .padded) : eccBody s = .ok (streamedState s) :=
  if_neg (not_not.2 h)

/-- Settles O54: each command gives its body's answer, and RUN's body is the bodies bound one to the
next. -/
theorem runIsTheFourCommandsInOrder : Obligations.RunIsTheFourCommandsInOrder := by
  refine ⟨fun s₀ s₁ s₂ s₃ s₄ h₀ hf h₁ he h₂ hp h₃ hm h₄ => ?_, fun s t hs hf ht => ?_,
    fun s₀ s₁ h₀ hf h₁ => ?_⟩
  · have hf := body_of_exec (i := .finish) rfl hf (by simp [h₁])
    have he := body_of_exec (i := .ecc) rfl he (by simp [h₂])
    have hp := body_of_exec (i := .place) rfl hp (by simp [h₃])
    have hm := body_of_exec (i := .mask) rfl hm (by simp [h₄])
    exact exec_run_ok (by simp [h₀]) (runBody_of_bodies hf he hp hm)
  · have hf := body_error_of_exec (i := .finish) rfl hs hf ht
    exact exec_run_error hs (bind_error.2 (.inl hf))
  · have hs : s₀.phase ≠ .error := by simp [h₀]
    have hf := body_of_exec (i := .finish) rfl hf (by simp [h₁])
    have he := eccBody_padded h₁
    refine ⟨_, (exec_eq_command (i := .ecc) rfl s₁).trans (command_ok (by simp [h₁]) he), rfl,
      fun s₃ hp => ⟨fun h₃ => ?_, fun h₃ s₄ hm h₄ => ?_⟩⟩
    · have hp := body_error_of_exec (i := .place) rfl (by simp [streamedState]) hp h₃
      exact exec_run_error hs (bind_error.2 (.inr ⟨_, hf, bind_error.2 (.inr ⟨_, he,
        bind_error.2 (.inl hp)⟩)⟩))
    · have hp := body_of_exec (i := .place) rfl hp h₃
      have hm := body_error_of_exec (i := .mask) rfl h₃ hm h₄
      exact exec_run_error hs (bind_error.2 (.inr ⟨_, hf, bind_error.2 (.inr ⟨_, he,
        bind_error.2 (.inr ⟨_, hp, hm⟩)⟩)⟩))

end Sys2Proof.Machine
end

section
/-! PROOFS. FINISH in closed form: the bits it appends, and that it cannot fail between segments
(spec/41_bitsink_framing.md R190 to R194). -/

namespace Sys2Proof.Machine

open Sys2Proof.Claims

/-! ### Appends that fit -/

@[simp] theorem grow_data (bits : List Bool) (s : State) : (grow bits s).data = s.data := rfl

/-- An append that fits, after others that did. -/
theorem appendBits_grow {value n : Nat} {pre : List Bool} {s : State} (hn : n ≤ 31)
    (hvalue : value < 2 ^ n) (hfit : s.bitLen.toNat + pre.length + n ≤ 8 * s.data.toNat) :
    appendBits value n (grow pre s) = .ok (grow (pre ++ bitsOf value n) s) := by
  have hpre : pre = [] ∨ s.bitLen.toNat + pre.length ≤ 8 * s.data.toNat := .inr (by omega)
  rw [← grow_grow hpre, ← appended_eq_grow]
  exact appendBits_ok.2 ⟨hn, Nat.shiftRight_eq_zero value n hvalue,
    by rw [grow_bitLen hpre]; exact hfit, rfl⟩

theorem bitsOf_zero (n : Nat) : bitsOf 0 n = List.replicate n false := by
  induction n with
  | zero => rfl
  | succ n ih => rw [bitsOf, ih, Nat.zero_testBit, List.replicate_succ]

/-! ### The pad bytes -/

/-- The pad byte after `k` others (R193). -/
def padByte (k : Nat) : Nat := if k % 2 = 0 then 0xEC else 0x11

/-- `m` pad bytes after `k` others, as bits. -/
def padBits (k m : Nat) : List Bool := (List.range m).flatMap fun i => bitsOf (padByte (k + i)) 8

theorem padByte_lt (k : Nat) : padByte k < 2 ^ 8 := by
  unfold padByte
  split <;> decide

theorem otherPad_padByte (k : Nat) : otherPad (padByte k) = padByte (k + 1) := by
  rcases Nat.mod_two_eq_zero_or_one k with h | h <;>
    simp [otherPad, padByte, h, Nat.add_mod]

theorem padBits_zero (k : Nat) : padBits k 0 = [] := rfl

theorem padBits_succ (k m : Nat) :
    padBits k (m + 1) = bitsOf (padByte k) 8 ++ padBits (k + 1) m := by
  simp only [padBits, List.range_succ_eq_map, List.flatMap_cons, List.flatMap_map, Nat.add_zero,
    Nat.succ_eq_add_one, Nat.add_assoc, Nat.add_comm 1]

@[simp] theorem padBits_length (k m : Nat) : (padBits k m).length = 8 * m := by
  induction m generalizing k with
  | zero => rfl
  | succ m ih => rw [padBits_succ, List.length_append, bitsOf_length, ih, Nat.mul_succ, Nat.add_comm]

/-- With `m` whole bytes free the pad loop appends `m` pad bytes. -/
theorem padLoop_eq {rounds m k : Nat} {pre : List Bool} {s : State}
    (hpre : s.bitLen.toNat + pre.length + 8 * m = 8 * s.data.toNat) (hrounds : m ≤ rounds) :
    padLoop rounds (padByte k) (grow pre s) = .ok (grow (pre ++ padBits k m) s) := by
  have hlen := grow_bitLen (bits := pre) (s := s) (.inr (by omega))
  induction rounds generalizing m k pre with
  | zero =>
    obtain rfl : m = 0 := by omega
    rw [padBits_zero, List.append_nil]
    rfl
  | succ rounds ih =>
    unfold padLoop
    rw [hlen, grow_data]
    cases m with
    | zero => rw [if_neg (by omega), padBits_zero, List.append_nil]
    | succ m =>
      have hfit : s.bitLen.toNat + (pre ++ bitsOf (padByte k) 8).length + 8 * m =
          8 * s.data.toNat := by
        rw [List.length_append, bitsOf_length]
        omega
      rw [if_pos (by omega), padBits_succ, ← List.append_assoc, otherPad_padByte]
      exact bind_ok.2 ⟨_, appendBits_grow (by decide) (padByte_lt k) (by omega),
        ih hfit (by omega) (grow_bitLen (.inr (by omega)))⟩

/-! ### Terminator, alignment and pad bytes -/

/-- The length of the terminator (R191). -/
def terminatorLength (cap len : Nat) : Nat := min 4 (cap - len)

/-- The length of the alignment to a whole byte (R192). -/
def alignmentLength (len : Nat) : Nat := (8 - len % 8) % 8

/-- The bits FINISH appends to a buffer of `len` bits. -/
def finishBits (cap len : Nat) : List Bool :=
  let terminated := len + terminatorLength cap len
  let aligned := terminated + alignmentLength terminated
  List.replicate (terminatorLength cap len) false ++
    (List.replicate (alignmentLength terminated) false ++ padBits 0 ((cap - aligned) / 8))

theorem paddedBits_eq (cap : Nat) (bits : List Bool) :
    paddedBits cap bits = bits ++ finishBits cap bits.length := by
  simp only [paddedBits, finishBits, terminatorLength, alignmentLength, padBits, padByte,
    List.length_append, List.length_replicate, Nat.zero_add, List.append_assoc, Nat.add_assoc]

/-- Alignment stays within a capacity of whole bytes and leaves whole bytes free. -/
theorem aligned_le {cap len : Nat} (hcap : cap % 8 = 0) (hlen : len ≤ cap) :
    len + alignmentLength len + 8 * ((cap - (len + alignmentLength len)) / 8) = cap := by
  unfold alignmentLength
  omega

theorem terminated_le {cap len : Nat} (hlen : len ≤ cap) : len + terminatorLength cap len ≤ cap := by
  unfold terminatorLength
  omega

theorem finishBits_length {cap len : Nat} (hcap : cap % 8 = 0) (hlen : len ≤ cap) :
    len + (finishBits cap len).length = cap := by
  have := aligned_le hcap (terminated_le hlen)
  simp only [finishBits, List.length_append, List.length_replicate, padBits_length]
  omega

/-- FINISH's three appends, from a buffer within the capacity. -/
theorem finish_appends {s : State} (hcap : s.bitLen.toNat ≤ 8 * s.data.toNat) :
    ∃ a b, appendBits 0 (terminatorLength (8 * s.data.toNat) s.bitLen.toNat) s = .ok a ∧
      appendBits 0 (alignmentLength a.bitLen.toNat) a = .ok b ∧
      padLoop b.data.toNat 0xEC b = .ok (grow (finishBits (8 * s.data.toNat) s.bitLen.toNat) s) := by
  have ht := terminated_le hcap
  have ha := aligned_le (Nat.mul_mod_right 8 s.data.toNat) ht
  have hterminator := appendBits_grow (value := 0) (pre := []) (s := s)
    (n := terminatorLength (8 * s.data.toNat) s.bitLen.toNat)
    ((Nat.min_le_left 4 _).trans (by decide)) (Nat.two_pow_pos _) ht
  rw [grow_nil, List.nil_append, bitsOf_zero] at hterminator
  generalize hlen : terminatorLength (8 * s.data.toNat) s.bitLen.toNat = t at ht ha hterminator
  have hfit : s.bitLen.toNat + (List.replicate t false).length ≤ 8 * s.data.toNat := by
    rwa [List.length_replicate]
  have halignment := appendBits_grow (value := 0) (pre := List.replicate t false) (s := s)
    (n := alignmentLength (s.bitLen.toNat + t)) (by unfold alignmentLength; omega)
    (Nat.two_pow_pos _) (by rw [List.length_replicate]; omega)
  rw [bitsOf_zero] at halignment
  refine ⟨_, grow (List.replicate t false ++
    List.replicate (alignmentLength (s.bitLen.toNat + t)) false) s, hterminator, ?_, ?_⟩
  · rw [grow_bitLen (.inr hfit), List.length_replicate, halignment]
  · rw [grow_data, finishBits, hlen, ← List.append_assoc]
    refine padLoop_eq (k := 0) ?_ (by omega)
    rw [List.length_append, List.length_replicate, List.length_replicate]
    omega

/-- The state FINISH leaves: the buffer filled, and packed into the data codewords (R190, R194). -/
def finishedState (s : State) : State :=
  { s with
    bitBuf := paddedBits (8 * s.data.toNat) s.bitBuf
    bitLen := BitVec.ofNat 15 (8 * s.data.toNat)
    dataCw := overwrite s.dataCw
      (packBytes s.data.toNat (paddedBits (8 * s.data.toNat) s.bitBuf))
    phase := .padded }

/-- Between segments FINISH cannot fail (R190, R195). -/
theorem finishBody_eq {s : State} (hphase : s.phase = .framing) (hopen : s.segOpen = false)
    (hbuf : BufferOk s) :
    finishBody s = .ok (finishedState s) := by
  obtain ⟨hlen, hcap⟩ := hbuf
  obtain ⟨a, b, ha, hb, hc⟩ := finish_appends hcap
  have hfull := finishBits_length (Nat.mul_mod_right 8 s.data.toNat) hcap
  have hgrow : grow (finishBits (8 * s.data.toNat) s.bitLen.toNat) s = { s with
      bitBuf := paddedBits (8 * s.data.toNat) s.bitBuf
      bitLen := BitVec.ofNat 15 (8 * s.data.toNat) } := by
    rw [grow, hfull, paddedBits_eq, hlen]
  rw [hgrow] at hc
  rw [finishBody, if_neg (by simp [betweenSegments_iff.2 ⟨hphase, hopen⟩])]
  exact bind_ok.2 ⟨a, ha, bind_ok.2 ⟨b, hb, bind_ok.2 ⟨_, hc, rfl⟩⟩⟩

end Sys2Proof.Machine
end

section
/-! PROOFS. PLACE and MASK write the S by S square alone: everything they draw, place and invert lies
in it (spec/43_matrix_builder.md R240 to R255). -/

namespace Sys2Proof.Machine

open Sys2Proof.Claims

theorem sameOutside_trans {side : Nat} {a b c : Matrix} (h₁ : SameOutside side a b)
    (h₂ : SameOutside side b c) : SameOutside side a c := by
  intro x y hout
  obtain ⟨hmod₁, hfn₁⟩ := h₁ x y hout
  obtain ⟨hmod₂, hfn₂⟩ := h₂ x y hout
  exact ⟨hmod₂.trans hmod₁, hfn₂.trans hfn₁⟩

/-! ### Draws in the symbol -/

/-- Every draw of the list is in the symbol. -/
def InSymbol (side : Nat) (ds : List Draw) : Prop := ∀ d ∈ ds, d.x < side ∧ d.y < side

theorem InSymbol.append {side : Nat} {ds es : List Draw} (hd : InSymbol side ds)
    (he : InSymbol side es) : InSymbol side (ds ++ es) :=
  fun d h => (List.mem_append.1 h).elim (hd d) (he d)

theorem timingDraws_inSymbol {side : Nat} (hside : 21 ≤ side) :
    InSymbol side (timingDraws side) := by
  intro d hd
  obtain ⟨i, hi, hd⟩ := List.mem_flatMap.1 hd
  have hi := List.mem_range.1 hi
  rcases List.mem_pair.1 hd with rfl | rfl <;> dsimp only <;> omega

/-- The square patterns are clipped to the symbol (R243, R246). -/
theorem squareDraws_inSymbol (side r : Nat) (dark : Nat → Bool) (cx cy : Nat) :
    InSymbol side (squareDraws side r dark cx cy) := by
  intro d hd
  obtain ⟨dy, -, hd⟩ := List.mem_flatMap.1 hd
  obtain ⟨dx, -, hd⟩ := List.mem_filterMap.1 hd
  simp only [Option.ite_none_right_eq_some, Option.some.injEq] at hd
  obtain ⟨hin, rfl⟩ := hd
  dsimp only
  omega

theorem finderDraws_inSymbol (side : Nat) : InSymbol side (finderDraws side) := by
  intro d hd
  obtain ⟨c, -, hd⟩ := List.mem_flatMap.1 hd
  exact squareDraws_inSymbol _ _ _ _ _ d hd

theorem alignmentDraws_inSymbol (side v : Nat) : InSymbol side (alignmentDraws side v) := by
  intro d hd
  obtain ⟨c, -, hd⟩ := List.mem_flatMap.1 hd
  exact squareDraws_inSymbol _ _ _ _ _ d hd

theorem formatDraws_inSymbol {side : Nat} (hside : 21 ≤ side) (ecl : Level) (k : Nat) :
    InSymbol side (formatDraws side ecl k) := by
  simp only [InSymbol, formatDraws, darkModuleDraw, List.forall_mem_append, List.forall_mem_map,
    List.forall_mem_cons, List.not_mem_nil, false_imp_iff, implies_true, and_true]
  omega

theorem versionDraws_inSymbol {side : Nat} (hside : 21 ≤ side) (v : Nat) :
    InSymbol side (versionDraws side v) := by
  intro d hd
  unfold versionDraws at hd
  split at hd
  · cases hd
  · obtain ⟨i, hi, hd⟩ := List.mem_flatMap.1 hd
    have hi := List.mem_range.1 hi
    rcases List.mem_pair.1 hd with rfl | rfl <;> dsimp only <;> omega

theorem darkModuleDraw_inSymbol {side : Nat} (hside : 21 ≤ side) :
    InSymbol side [darkModuleDraw side] := by
  simp only [InSymbol, darkModuleDraw, List.forall_mem_singleton]
  omega

theorem functionDraws_inSymbol {side : Nat} (hside : 21 ≤ side) (v : Nat) (ecl : Level) :
    InSymbol side (functionDraws side v ecl) :=
  (((((timingDraws_inSymbol hside).append (finderDraws_inSymbol side)).append
    (alignmentDraws_inSymbol side v)).append (formatDraws_inSymbol hside ecl 0)).append
    (versionDraws_inSymbol hside v)).append (darkModuleDraw_inSymbol hside)

/-! ### What is outside the symbol stays -/

theorem setFn_sameOutside {side : Nat} {d : Draw} (m : Matrix) (hx : d.x < side) (hy : d.y < side) :
    SameOutside side m (setFn m d) := by
  intro x y hout
  have hne : ¬(x = d.x ∧ y = d.y ∧ d.x < Config.maxSide ∧ d.y < Config.maxSide) := by
    rintro ⟨rfl, rfl, -⟩
    exact hout ⟨hx, hy⟩
  simp only [setFn, cell_setCell, if_neg hne, and_self]

theorem drawAll_sameOutside {side : Nat} {ds : List Draw} (m : Matrix) (h : InSymbol side ds) :
    SameOutside side m (drawAll ds m) := by
  induction ds generalizing m with
  | nil => exact fun _ _ _ => ⟨rfl, rfl⟩
  | cons d ds ih =>
    obtain ⟨hx, hy⟩ := h d List.mem_cons_self
    exact sameOutside_trans (setFn_sameOutside m hx hy)
      (ih _ fun e he => h e (List.mem_cons_of_mem d he))

theorem clearSquare_sameOutside (side : Nat) (m : Matrix) :
    SameOutside side m (clearSquare side m) := by
  intro x y hout
  have hne : ¬(x < side ∧ y < side ∧ x < Config.maxSide ∧ y < Config.maxSide) :=
    fun ⟨hx, hy, _⟩ => hout ⟨hx, hy⟩
  simp only [clearSquare, cell_mapSquare, if_neg hne, and_self]

theorem placeData_sameOutside (side raw : Nat) (stream : List Byte) (m : Matrix) :
    SameOutside side m (placeData side raw stream m).1 := by
  intro x y hout
  refine ⟨?_, by rw [placeData_fn]⟩
  exact foldl_placeBit_mod_notMem (q := (x, y)) _ _ _ fun hmem => hout (zigzag_bounds hmem)

theorem applyMask_sameOutside (k side : Nat) (m : Matrix) :
    SameOutside side m (applyMask k side m) := by
  intro x y hout
  refine ⟨?_, rfl⟩
  rw [cell_applyMask, if_neg]
  rintro ⟨⟨hx, hy, -⟩, -⟩
  exact hout ⟨hx, hy⟩

theorem Configured.side_ge {s : State} (h : Configured s) : 21 ≤ s.size.toNat := by
  obtain ⟨hv, -, hsize, -⟩ := h
  rw [hsize, sideLength]
  omega

/-- PLACE's matrix (R255). -/
theorem placed_sameOutside {s : State} (hconf : Configured s) :
    SameOutside s.size.toNat s.matrix
      (placeData s.size.toNat s.raw.toNat s.stream (patterned s)).1 :=
  sameOutside_trans (clearSquare_sameOutside _ _) <|
    sameOutside_trans (drawAll_sameOutside _ (functionDraws_inSymbol hconf.side_ge _ _))
      (placeData_sameOutside _ _ _ _)

/-- MASK's matrix (R296). -/
theorem finalMatrix_sameOutside {side : Nat} (hside : 21 ≤ side) (v : Nat) (ecl : Level) (k : Nat)
    (m : Matrix) : SameOutside side m (finalMatrix side v ecl k m) :=
  sameOutside_trans (applyMask_sameOutside k side m) <| drawAll_sameOutside _ <|
    (formatDraws_inSymbol hside ecl k).append (versionDraws_inSymbol hside v)

/-- A free cell of the final matrix: neither format nor version is drawn there, so it is the placed
cell, inverted where the mask holds (R282, R296). -/
theorem finalMatrix_free {side v : Nat} {ecl : Level} {m : Matrix} {x y : Nat} (k : Nat)
    (hside : side ≤ Config.maxSide) (hx : x < side) (hy : y < side) (hfn : cell m.fn x y = false)
    (hfree : isFunctionCell side v ecl x y = false) :
    cell (finalMatrix side v ecl k m).mod x y = (cell m.mod x y ^^ maskAt k x y) := by
  have hundrawn : ∀ d ∈ formatDraws side ecl k ++ versionDraws side v, d.at x y = false := by
    have hany := mt (isFunctionCell_of_final (k := k)) (by rw [hfree]; exact Bool.false_ne_true)
    rw [Bool.not_eq_true, List.any_eq_false] at hany
    exact fun d hd => by simpa using hany d hd
  rw [finalMatrix, drawAll_mod_of_undrawn _ _ hundrawn, cell_applyMask]
  cases hk : maskAt k x y with
  | false => simp
  | true => simp [hx, hy, hx.trans_le hside, hy.trans_le hside, hfn]

end Sys2Proof.Machine
end

section
/-! PROOFS. The penalty of a symbol never fails: the balance band (spec/44_masker.md R292) and the
bound of R298, term by term. -/

namespace Sys2Proof.Machine

/-! ### One line -/

theorem countPatterns_le (h : RunHistory) : countPatterns h ≤ 2 := by
  unfold countPatterns
  split <;> split <;> decide

theorem terminateAndCount_le (side : Nat) (dark : Bool) (len : Nat) (h : RunHistory) :
    terminateAndCount side dark len h ≤ 2 := by
  unfold terminateAndCount
  split <;> exact countPatterns_le _

/-- What the scan stays within after `n` cells: a run of L ≥ 5 scores L - 2, so a line with a score
scores two less than the cells of its scored runs, and a cell ends at most one run, which counts at
most two patterns of weight 40 (R285, R287). -/
structure ScanBounds (n : Nat) (l : LineScan) : Prop where
  len : l.len ≤ n
  p1 : l.p1 = 0 ∨ l.p1 + 2 + (if l.len < 5 then l.len else 0) ≤ n
  p3 : l.p3 ≤ 80 * n

theorem scanCell_bounds {n : Nat} {l : LineScan} (side : Nat) (c : Bool) (h : ScanBounds n l) :
    ScanBounds (n + 1) (scanCell side l c) := by
  obtain ⟨hlen, hp1, hp3⟩ := h
  unfold scanCell
  split
  · refine ⟨by dsimp only; omega, ?_, by dsimp only; omega⟩
    dsimp only
    split_ifs at hp1 ⊢ <;> omega
  · refine ⟨by dsimp only; omega, ?_, ?_⟩
    · dsimp only
      split_ifs at hp1 ⊢ <;> omega
    · have := countPatterns_le (histPush side l.len l.hist)
      dsimp only
      split <;> omega

theorem scanLine_bounds (side : Nat) (cells : List Bool) :
    ScanBounds cells.length (scanLine side cells) := by
  induction cells using List.reverseRecOn with
  | nil => exact ⟨Nat.le_refl _, .inl rfl, Nat.le_refl _⟩
  | append_singleton cells c ih =>
    rw [scanLine, List.foldl_append, List.length_append]
    exact scanCell_bounds side c ih

theorem linePenalty_le (side : Nat) (cells : List Bool) :
    linePenalty side cells ≤ cells.length - 2 + 80 * (cells.length + 1) := by
  obtain ⟨-, hp1, hp3⟩ := scanLine_bounds side cells
  have hend := terminateAndCount_le side (scanLine side cells).dark (scanLine side cells).len
    (scanLine side cells).hist
  unfold linePenalty
  dsimp only
  split at hp1 <;> omega

/-! ### The terms -/

/-- The sum over the indices below `n` of a term bounded there. -/
theorem sum_range_le {n b : Nat} {f : Nat → Nat} (h : ∀ a, f a ≤ b) :
    ((List.range n).map f).sum ≤ n * b := by
  have := List.sum_le_card_nsmul ((List.range n).map f) b (by simpa using fun a _ => h a)
  simpa using this

theorem runPenalty_le (side : Nat) (g : Grid) :
    runPenalty side g ≤ 2 * (side * (side - 2 + 80 * (side + 1))) := by
  have hrow : ((List.range side).map fun a => linePenalty side (rowCells side g a)).sum ≤
      side * (side - 2 + 80 * (side + 1)) :=
    sum_range_le fun a => by simpa [rowCells] using linePenalty_le side (rowCells side g a)
  have hcolumn : ((List.range side).map fun a => linePenalty side (columnCells side g a)).sum ≤
      side * (side - 2 + 80 * (side + 1)) :=
    sum_range_le fun a => by simpa [columnCells] using linePenalty_le side (columnCells side g a)
  rw [runPenalty]
  omega

theorem blockPenalty_le (side : Nat) (g : Grid) :
    blockPenalty side g ≤ 3 * ((side - 1) * (side - 1)) :=
  Nat.mul_le_mul_left 3 <| sum_range_le fun y => by
    simpa using List.countP_le_length (p := fun x => sameBlock g x y) (l := List.range (side - 1))

theorem darkCount_le (side : Nat) (g : Grid) : darkCount side g ≤ side * side :=
  sum_range_le fun y => by
    simpa using List.countP_le_length (p := fun x => cell g x y) (l := List.range side)

/-- The dark share of an odd symbol is never exactly half, nor further from half than all of it
(R292). -/
theorem balanceCeiling_bounds {side d : Nat} (hodd : side % 2 = 1) (hd : d ≤ side * side) :
    1 ≤ balanceCeiling side d ∧ balanceCeiling side d ≤ 10 := by
  have hsquare : side * side % 2 = 1 := by simp [Nat.mul_mod, hodd]
  unfold balanceCeiling
  dsimp only
  generalize side * side = t at hd hsquare ⊢
  refine ⟨(Nat.le_div_iff_mul_le (by omega)).2 (by omega), ?_⟩
  exact Nat.le_of_lt_succ ((Nat.div_lt_iff_lt_mul (by omega)).2 (by omega))

/-! ### The whole symbol -/

/-- The penalty of a symbol without its assertions (R284). -/
def penaltySum (side : Nat) (g : Grid) : Nat :=
  runPenalty side g + blockPenalty side g + (balanceCeiling side (darkCount side g) - 1) * 10

theorem sideLength_odd (v : Nat) : sideLength v % 2 = 1 := by
  unfold sideLength
  omega

theorem penaltySum_le {v : Nat} (hv : v ≤ 40) (g : Grid) :
    penaltySum (sideLength v) g ≤ penaltyBound := by
  have hside : sideLength v ≤ 177 := by
    unfold sideLength
    omega
  have hrun := runPenalty_le (sideLength v) g
  have hblock := blockPenalty_le (sideLength v) g
  have hbalance := (balanceCeiling_bounds (sideLength_odd v) (darkCount_le (sideLength v) g)).2
  have hlines : sideLength v * (sideLength v - 2 + 80 * (sideLength v + 1)) ≤ 177 * 14415 :=
    Nat.mul_le_mul hside (by omega)
  have hwindows : (sideLength v - 1) * (sideLength v - 1) ≤ 176 * 176 :=
    Nat.mul_le_mul (by omega) (by omega)
  unfold penaltySum penaltyBound
  omega

/-- No assertion of the penalty fires (R293). -/
theorem penalty_eq {v : Nat} (hv : v ≤ 40) (g : Grid) :
    penalty (sideLength v) g = .ok (penaltySum (sideLength v) g) := by
  have hband := balanceCeiling_bounds (sideLength_odd v) (darkCount_le (sideLength v) g)
  unfold penalty
  dsimp only
  rw [if_neg (not_not.2 hband)]
  exact if_neg (Nat.not_lt.2 (penaltySum_le hv g))

end Sys2Proof.Machine
end

section
/-! PROOFS. MASK (spec/44_masker.md R294 to R296): scoring leaves the matrix as it was, a mask id is
always chosen, and the command completes. -/

namespace Sys2Proof.Machine

/-! ### A mask applied and undone -/

theorem grid_ext {g g' : Grid} (h : ∀ x y, cell g x y = cell g' x y) : g = g' := by
  refine Vector.ext fun y hy => BitVec.eq_of_getLsbD_eq fun x _ => ?_
  simpa [cell, row, hy] using h x y

/-- A mask applied twice restores the matrix (R283). -/
theorem applyMask_applyMask (k side : Nat) (m : Matrix) :
    applyMask k side (applyMask k side m) = m := by
  have hmod : (applyMask k side (applyMask k side m)).mod = m.mod := by
    refine grid_ext fun x y => ?_
    rw [cell_applyMask, cell_applyMask, applyMask_fn]
    split <;> simp
  exact congrArg (Matrix.mk · m.fn) hmod

theorem scoreMask_matrix {k : Nat} {s t : State} (h : scoreMask s k = .ok t) :
    t.matrix = s.matrix := by
  unfold scoreMask at h
  dsimp only at h
  split at h <;> cases h
  exact applyMask_applyMask k _ _

theorem scoreMasks_matrix {ks : List Nat} {s t : State} (h : scoreMasks ks s = .ok t) :
    t.matrix = s.matrix := by
  induction ks generalizing s with
  | nil =>
    cases h
    rfl
  | cons k ks ih =>
    unfold scoreMasks at h
    cases hk : scoreMask s k with
    | error c =>
      rw [hk] at h
      cases h
    | ok u =>
      rw [hk] at h
      exact (ih h).trans (scoreMask_matrix hk)

/-! ### The mask chosen -/

theorem bestMask_lt (pen : Vector Word 8) : bestMask pen < 8 := by
  unfold bestMask
  cases hfind : (List.range 8).find? _ with
  | none => decide
  | some k => exact List.mem_range.1 (List.mem_of_find?_eq_some hfind)

theorem chooseMask_matrix {s u : State} {best : Nat} (h : chooseMask s = .ok (u, best)) :
    u.matrix = s.matrix ∧ best < 8 := by
  unfold chooseMask at h
  split at h
  · cases hk : scoreMasks (List.range 8) s with
    | error c =>
      rw [hk] at h
      cases h
    | ok w =>
      rw [hk] at h
      cases h
      exact ⟨(scoreMasks_matrix hk : w.matrix = _), bestMask_lt _⟩
  · cases h
    exact ⟨rfl, s.maskId.isLt⟩

/-- The matrix MASK leaves: the chosen mask on the placed matrix, whatever was scored (R296). -/
theorem maskBody_matrix {s t : State} (h : maskBody s = .ok t) :
    t.matrix = finalMatrix s.size.toNat s.version.toNat s.ecl t.chosen.toNat s.matrix := by
  obtain ⟨-, hx⟩ := guard_ok h
  cases hc : chooseMask s with
  | error c =>
    rw [hc] at hx
    cases hx
  | ok r =>
    obtain ⟨u, k⟩ := r
    rw [hc] at hx
    obtain ⟨hmatrix, hk⟩ := chooseMask_matrix hc
    obtain ⟨pen, m, -, rfl, -⟩ := chooseMask_ok hc
    cases hx
    have hchosen : (BitVec.ofNat 3 k).toNat = k := by rw [BitVec.toNat_ofNat, Nat.mod_eq_of_lt hk]
    dsimp only at hmatrix ⊢
    rw [hmatrix, hchosen]

/-! ### Completion -/

theorem scoreMasks_completes {v : Nat} (hv : v ≤ 40) (ks : List Nat) {s : State}
    (hsize : s.size.toNat = sideLength v) : ∃ t, scoreMasks ks s = .ok t := by
  induction ks generalizing s with
  | nil => exact ⟨s, rfl⟩
  | cons k ks ih =>
    have hscore : ∃ u, scoreMask s k = .ok u := by
      unfold scoreMask
      dsimp only
      rw [hsize, penalty_eq hv]
      exact ⟨_, rfl⟩
    obtain ⟨u, hu⟩ := hscore
    obtain ⟨pen, m, -, rfl⟩ := scoreMask_ok hu
    unfold scoreMasks
    rw [hu]
    exact ih hsize

/-- MASK completes in PLACED (R293, R296). -/
theorem maskBody_completes {s : State} (hphase : s.phase = .placed) (hconf : Configured s) :
    ∃ t, maskBody s = .ok t := by
  obtain ⟨-, hv, hsize, -⟩ := hconf
  have hchoice : ∃ r, chooseMask s = .ok r := by
    unfold chooseMask
    split
    · obtain ⟨u, hu⟩ := scoreMasks_completes hv (List.range 8) hsize
      rw [hu]
      exact ⟨_, rfl⟩
    · exact ⟨_, rfl⟩
  obtain ⟨⟨u, k⟩, hu⟩ := hchoice
  rw [maskBody, if_neg (not_not.2 hphase), hu]
  exact ⟨_, rfl⟩

end Sys2Proof.Machine
end

section
/-! PROOFS. RUN completes, and the symbol it leaves carries the stream (spec/40_control.md R140). -/

namespace Sys2Proof.Machine

open Sys2Proof.Claims

/-- The state PLACE leaves (R255). -/
def placedState (s : State) : State :=
  { s with
    matrix := (placeData s.size.toNat s.raw.toNat s.stream (patterned s)).1
    phase := .placed }

theorem placeBody_eq {s : State} (hphase : s.phase = .interleaved) (hconf : Configured s) :
    placeBody s = .ok (placedState s) :=
  body_of_exec (i := .place) rfl (exec_place hphase hconf) (by simp [placedState])

/-- FINISH writes the first `S_DATA` codewords (R194). -/
theorem entry_packed_of_ge (bytes : List Byte) (bits : List Bool) {n j : Nat} (h : n ≤ j) :
    entry (overwrite bytes (packBytes n bits)) j = entry bytes j := by
  rw [entry_overwrite, packBytes_length, if_neg (Nat.not_lt.2 h)]

/-- ECC writes the first `S_RAW` entries of the stream (R228, R229). -/
theorem entry_streamed_of_ge {s : State} (hconf : Configured s) (data bytes : List Byte) {p : Nat}
    (h : s.raw.toNat ≤ p) :
    entry (overwrite bytes (codewordStream s.blocks.toNat s.eccLen.toNat s.raw.toNat
      (entries s.data.toNat data))) p = entry bytes p := by
  rw [entry_overwrite, hconf.codewordStream_length, if_neg (Nat.not_lt.2 h)]

/-- Settles O55: FINISH fills the buffer, ECC cannot fail, the free cells of the version take the
whole stream and no penalty breaks its bound; each command writes its own elements only. -/
theorem runAlwaysCompletes : Obligations.RunAlwaysCompletes := by
  intro s hinv hphase hopen
  obtain ⟨hconf, hbuf, -⟩ := hinv
  have hconf := hconf.configured hphase
  have hfinish := finishBody_eq hphase hopen hbuf
  have hecc := eccBody_padded (s := finishedState s) rfl
  have hplace := placeBody_eq (s := streamedState (finishedState s)) rfl hconf
  obtain ⟨t, hmask⟩ :=
    maskBody_completes (s := placedState (streamedState (finishedState s))) rfl hconf
  have hmatrix := maskBody_matrix hmask
  obtain ⟨-, pen, m, k, dark, -, -, rfl⟩ := maskBody_ok hmask
  refine ⟨_, exec_run_ok (by simp [hphase]) (runBody_of_bodies hfinish hecc hplace hmask), ?_,
    fun j => entry_packed_of_ge _ _, fun p => entry_streamed_of_ge hconf _ _, ?_⟩
  · simp only [placedState, streamedState, finishedState]
    rfl
  · rw [hmatrix]
    exact sameOutside_trans (placed_sameOutside (s := streamedState (finishedState s)) hconf)
      (finalMatrix_sameOutside hconf.side_ge _ _ _ _)

/-- Settles O56: PLACE puts stream bit i into the i-th free cell, and MASK draws over no free cell. -/
theorem finishedSymbolCarriesTheStream : Obligations.FinishedSymbolCarriesTheStream := by
  intro s t ⟨hconf, _⟩ hphase hrun hdone i p hp
  have hbody := body_of_exec (i := .run) rfl hrun (by simp [hdone])
  obtain ⟨a, b, c, hfinish, hecc, hplace, hmask⟩ := runBody_ok hbody
  have hframe : withoutWork b = withoutWork s :=
    (eccBody_withoutWork hecc).trans (finishBody_withoutWork hfinish)
  have hpath : freePath b = freePath s := kept freePath hframe
  have hraw : b.raw = s.raw := kept State.raw hframe
  have hconf : Configured b := (kept Configured hframe).mpr (hconf.configured hphase)
  have hsize := hconf.size_le
  rw [← hpath] at hp
  obtain ⟨hin, hfree⟩ := List.mem_filter.1 (List.mem_of_getElem? hp)
  obtain ⟨hx, hy⟩ := zigzag_bounds hin
  obtain ⟨hfn, hbit⟩ := placeData_freePath hsize hp
  have hmatrix := maskBody_matrix hmask
  have hstream : t.stream = c.stream := by
    obtain ⟨-, _, _, _, _, -, -, rfl⟩ := maskBody_ok hmask
    rfl
  obtain ⟨-, -, rfl⟩ := placeBody_ok hplace
  rw [hmatrix, finalMatrix_free _ hsize hx hy hfn (by simpa using hfree), hbit, hstream, hraw]

end Sys2Proof.Machine
end

section
/-! PROOFS. The framing commands as bits emitted: a body whose operands are legal emits one string
of bits, all of it or, where the capacity does not hold it, none (spec/41_bitsink_framing.md R160
to R179). -/

namespace Sys2Proof.Machine

open Sys2Proof.Claims

/-! ### Bits of a value -/

/-- The order of R88: bit `n - 1` first. -/
theorem bitsOf_eq_map (value n : Nat) :
    bitsOf value n = (List.range n).map fun j => value.testBit (n - 1 - j) := by
  induction n with
  | zero => rfl
  | succ n ih =>
    rw [bitsOf, ih, List.range_succ_eq_map, List.map_cons, List.map_map]
    refine congrArg₂ List.cons rfl (List.map_congr_left fun j _ => ?_)
    exact congrArg value.testBit (by omega)

/-- Only the low `n` bits of a value matter. -/
theorem bitsOf_mod (value n : Nat) : bitsOf (value % 2 ^ n) n = bitsOf value n := by
  rw [bitsOf_eq_map, bitsOf_eq_map]
  refine List.map_congr_left fun j hj => ?_
  rw [Nat.testBit_mod_two_pow, decide_eq_true (by have := List.mem_range.1 hj; omega),
    Bool.true_and]

/-- `m` bits put above `n` others. -/
theorem bitsOf_shiftLeft_or (p m : Nat) {value n : Nat} (h : value < 2 ^ n) :
    bitsOf (p <<< n ||| value) (m + n) = bitsOf p m ++ bitsOf value n := by
  rw [bitsOf_add, ← Nat.shiftLeft_add_eq_or_of_lt h, ← bitsOf_mod (p <<< n + value),
    Nat.shiftRight_eq_div_pow, Nat.shiftLeft_eq, Nat.mul_add_mod_self_right, bitsOf_mod,
    Nat.add_comm, Nat.add_mul_div_right _ _ (Nat.two_pow_pos n), Nat.div_eq_of_lt h, Nat.zero_add]

/-! ### Emission -/

/-- The bits added to the buffer if the capacity holds them all, *DataTooLong* if not (R160). -/
def emit (bits : List Bool) (s : State) : Except ErrCode State :=
  if s.bitLen.toNat + bits.length > 8 * s.data.toNat then .error .dataTooLong
  else .ok (grow bits s)

/-- Two states with as many bits in the buffer and the same capacity: one has room for what the
other has. -/
def SameRoom (s t : State) : Prop := t.bitLen = s.bitLen ∧ t.data = s.data

/-- An append of a value that its width holds. -/
theorem appendBits_eq_emit {value n : Nat} (hn : n ≤ 31) (hvalue : value < 2 ^ n) (s : State) :
    appendBits value n s = emit (bitsOf value n) s := by
  have hlegal : ¬(n > 31 ∨ value >>> n ≠ 0) := by
    rw [Nat.shiftRight_eq_zero value n hvalue]
    omega
  rw [appendBits_eq, if_neg hlegal, emit, bitsOf_length, appended_eq_grow]

theorem ok_eq_emit {s : State} (h : s.bitLen.toNat ≤ 8 * s.data.toNat) : .ok s = emit [] s := by
  rw [emit, List.length_nil, if_neg (by omega), grow_nil]

/-- Bits emitted one string after another are emitted together; what a body writes to elements other
than the buffer between the two is in `s'`. -/
theorem emit_bind {a b : List Bool} {s s' : State} {k : State → Except ErrCode State}
    (hroom : SameRoom s s')
    (hk : (grow a s).bitLen.toNat ≤ 8 * s.data.toNat → k (grow a s) = emit b (grow a s')) :
    (emit a s >>= k) = emit (a ++ b) s' := by
  obtain ⟨hlen, hdata⟩ := hroom
  by_cases hfit : s.bitLen.toNat + a.length > 8 * s.data.toNat
  · rw [emit, if_pos hfit, emit, hlen, hdata, List.length_append, if_pos (by omega)]
    rfl
  · have ha : s.bitLen.toNat + a.length ≤ 8 * s.data.toNat := by omega
    have hgrow : (grow a s').bitLen.toNat = s'.bitLen.toNat + a.length :=
      grow_bitLen (.inr (by rwa [hlen, hdata]))
    rw [emit, if_neg hfit]
    refine (hk (by rwa [grow_bitLen (.inr ha)])).trans ?_
    rw [emit, emit, hgrow, grow_data, grow_grow (.inr (by rwa [hlen, hdata])), List.length_append,
      Nat.add_assoc]

/-- `emit_bind` for an append. -/
theorem appendBits_bind {value n : Nat} {b : List Bool} {s s' : State}
    {k : State → Except ErrCode State} (hn : n ≤ 31) (hvalue : value < 2 ^ n)
    (hroom : SameRoom s s')
    (hk : (grow (bitsOf value n) s).bitLen.toNat ≤ 8 * s.data.toNat →
      k (grow (bitsOf value n) s) = emit b (grow (bitsOf value n) s')) :
    (appendBits value n s >>= k) = emit (bitsOf value n ++ b) s' := by
  rw [appendBits_eq_emit hn hvalue]
  exact emit_bind hroom hk

/-- Bits emitted, then a write to elements other than the buffer. -/
theorem emit_then {a : List Bool} {s s' : State} {k : State → Except ErrCode State}
    (hroom : SameRoom s s') (hk : k (grow a s) = .ok (grow a s')) :
    (emit a s >>= k) = emit a s' := by
  obtain ⟨hlen, hdata⟩ := hroom
  have hbind := emit_bind (b := []) (k := k) ⟨hlen, hdata⟩ fun hfit => by
    have hfit' : (grow a s').bitLen.toNat ≤ 8 * (grow a s').data.toNat := by
      rw [grow, hlen, hdata]
      exact hfit
    exact hk.trans (ok_eq_emit hfit')
  rwa [List.append_nil] at hbind

/-- `emit_then` for an append. -/
theorem appendBits_then {value n : Nat} {s s' : State} {k : State → Except ErrCode State}
    (hn : n ≤ 31) (hvalue : value < 2 ^ n) (hroom : SameRoom s s')
    (hk : k (grow (bitsOf value n) s) = .ok (grow (bitsOf value n) s')) :
    (appendBits value n s >>= k) = emit (bitsOf value n) s' := by
  rw [appendBits_eq_emit hn hvalue]
  exact emit_then hroom hk

/-- A command whose body fails. -/
theorem exec_error {i : Instr} {b : State → Except ErrCode State} {s : State} {c : ErrCode}
    (hb : commandBody i = some b) (hs : s.phase ≠ .error) (h : b s = .error c) :
    exec i s = .next (errorEntry c i.opcode s) :=
  (exec_eq_command hb s).trans (command_error hs h)

/-- A command whose body emits bits: all of them, or error entry with *DataTooLong*. -/
theorem exec_emit {i : Instr} {b : State → Except ErrCode State} {s s' : State} {bits : List Bool}
    (hb : commandBody i = some b) (hs : s.phase ≠ .error) (h : b s = emit bits s')
    (hroom : SameRoom s s') :
    if s.bitLen.toNat + bits.length > 8 * s.data.toNat then
      exec i s = .next (errorEntry .dataTooLong i.opcode s)
    else exec i s = .next (grow bits s') := by
  obtain ⟨hlen, hdata⟩ := hroom
  rw [emit, hlen, hdata] at h
  by_cases hfit : s.bitLen.toNat + bits.length > 8 * s.data.toNat
  · rw [if_pos hfit] at h ⊢
    exact exec_error hb hs h
  · rw [if_neg hfit] at h ⊢
    exact (exec_eq_command hb s).trans (command_ok hs h)

/-- The guard of the framing commands, before a body that fails where `Q` holds. -/
theorem between_invalid {s : State} {Q : Prop} {x : Except ErrCode State}
    (h : s.phase ≠ .framing ∨ s.segOpen = true ∨ Q) (hx : Q → x = .error .invalidArgument) :
    (if !betweenSegments s then .error .invalidArgument else x) = .error .invalidArgument := by
  refine guard_invalid fun hbetween => ?_
  obtain ⟨hphase, hopen⟩ := betweenSegments_iff.1 (by simpa using hbetween)
  simp only [hphase, hopen, ne_eq, not_true, Bool.false_eq_true, false_or] at h
  exact hx h

theorem between_passes {s : State} (hphase : s.phase = .framing) (hopen : s.segOpen = false) :
    ¬(!betweenSegments s) = true := by
  simp [betweenSegments_iff.2 ⟨hphase, hopen⟩]

/-! ### APPEND_BITS -/

theorem appendBitsBody_invalid {n : BitVec 6} {s : State}
    (h : s.phase ≠ .framing ∨ s.segOpen = true ∨ n.toNat > 31 ∨ s.arg.toNat / 2 ^ n.toNat ≠ 0) :
    appendBitsBody n s = .error .invalidArgument := by
  rw [← Nat.shiftRight_eq_div_pow] at h
  exact between_invalid h fun h => if_pos h

theorem appendBitsBody_eq {n : BitVec 6} {s : State} (hphase : s.phase = .framing)
    (hopen : s.segOpen = false) (hn : n.toNat ≤ 31) (harg : s.arg.toNat / 2 ^ n.toNat = 0) :
    appendBitsBody n s = emit (bitsOf s.arg.toNat n.toNat) s := by
  rw [appendBitsBody, if_neg (between_passes hphase hopen)]
  exact appendBits_eq_emit hn ((Nat.div_eq_zero_iff_lt (Nat.two_pow_pos _)).1 harg) s

/-- Settles O26: on legal operands the body emits the operand's low bits. -/
theorem appendBitsAppendsTheOperand : Obligations.AppendBitsAppendsTheOperand := by
  intro n s hs
  split
  · next h => exact exec_error (i := .appendBits n) rfl hs (appendBitsBody_invalid h)
  · next h =>
    simp only [not_or, not_not, Bool.not_eq_true, not_lt] at h
    obtain ⟨hphase, hopen, hn, harg⟩ := h
    have hexec := exec_emit (i := .appendBits n) rfl hs
      (appendBitsBody_eq hphase hopen hn harg) ⟨rfl, rfl⟩
    rw [grow, bitsOf_length, bitsOf_eq_map] at hexec
    exact hexec

/-! ### SA_HEADER -/

theorem saHeaderBody_invalid {p : BitVec 8} {c : BitVec 5} {i : BitVec 4} {s : State}
    (h : s.phase ≠ .framing ∨ s.segOpen = true ∨ s.dataSeen = true ∨ s.saDone = true ∨
      c.toNat = 0 ∨ c.toNat > 16 ∨ i.toNat ≥ c.toNat) :
    saHeaderBody p c i s = .error .invalidArgument := by
  refine between_invalid h fun h => guard_invalid fun hfirst => if_pos ?_
  obtain ⟨hdata, hsa⟩ : s.dataSeen = false ∧ s.saDone = false := by simpa using hfirst
  simp only [hdata, hsa, Bool.false_eq_true, false_or] at h
  omega

/-- The 20 bits of the header (R163). -/
def saHeaderBits (p : BitVec 8) (c : BitVec 5) (i : BitVec 4) : List Bool :=
  bitsOf structuredAppendIndicator 4 ++ bitsOf i.toNat 4 ++ bitsOf (c.toNat - 1) 4 ++
    bitsOf p.toNat 8

theorem saHeaderBody_eq (p : BitVec 8) {c : BitVec 5} {i : BitVec 4} {s : State}
    (hphase : s.phase = .framing) (hopen : s.segOpen = false) (hdata : s.dataSeen = false)
    (hsa : s.saDone = false) (hindex : i.toNat < c.toNat) (hcount : c.toNat ≤ 16) :
    saHeaderBody p c i s = emit (saHeaderBits p c i) { s with saDone := true } := by
  rw [saHeaderBody, if_neg (between_passes hphase hopen), if_neg (by simp [hdata, hsa]),
    if_neg (not_not.2 ⟨hindex, hcount⟩), saHeaderBits, List.append_assoc, List.append_assoc]
  refine appendBits_bind (by decide) (by decide) ⟨rfl, rfl⟩ fun _ => ?_
  refine appendBits_bind (by decide) i.isLt ⟨rfl, rfl⟩ fun _ => ?_
  refine appendBits_bind (by decide) (by omega) ⟨rfl, rfl⟩ fun _ => ?_
  exact appendBits_then (by decide) p.isLt ⟨rfl, rfl⟩ rfl

/-- Settles O28: on legal operands the body emits the 20 bits. -/
theorem saHeaderEmitsTwentyBits : Obligations.SaHeaderEmitsTwentyBits := by
  intro p c i s hs
  split
  · next h => exact exec_error (i := .saHeader p c i) rfl hs (saHeaderBody_invalid h)
  · next h =>
    simp only [not_or, not_not, Bool.not_eq_true, not_lt, not_le] at h
    obtain ⟨hphase, hopen, hdata, hsa, -, hcount, hindex⟩ := h
    have hlength : (saHeaderBits p c i).length = 20 := by simp [saHeaderBits]
    have hexec := exec_emit (i := .saHeader p c i) rfl hs
      (saHeaderBody_eq p hphase hopen hdata hsa hindex hcount) ⟨rfl, rfl⟩
    rw [grow, hlength] at hexec
    exact hexec

/-! ### ECI -/

theorem eciBody_invalid {v : BitVec 20} {s : State}
    (h : s.phase ≠ .framing ∨ s.segOpen = true ∨ v.toNat > 999999) :
    eciBody v s = .error .invalidArgument :=
  between_invalid h fun h => if_pos h

/-- The designator as one append: its marker bits above the value's bits (R167). -/
theorem appendBits_eciDesignator {v : Nat} (hv : v ≤ 999999) (s : State) :
    appendBits (eciDesignator v).1 (eciDesignator v).2 s = emit (designatorBits v) s := by
  unfold eciDesignator designatorBits
  split
  · exact appendBits_eq_emit (n := 8) (by decide) (by omega) s
  split
  · next h =>
    have hbits : bitsOf (0b10 <<< 14 ||| v) 16 = [true, false] ++ bitsOf v 14 :=
      bitsOf_shiftLeft_or 0b10 2 h
    rw [← hbits]
    exact appendBits_eq_emit (n := 16) (by decide) (Nat.or_lt_two_pow (by decide) (by omega)) s
  · next h =>
    have hbits : bitsOf (0b110 <<< 21 ||| v) 24 = [true, true, false] ++ bitsOf v 21 :=
      bitsOf_shiftLeft_or 0b110 3 (by omega)
    rw [← hbits]
    exact appendBits_eq_emit (n := 24) (by decide) (Nat.or_lt_two_pow (by decide) (by omega)) s

theorem eciBody_eq {v : BitVec 20} {s : State} (hphase : s.phase = .framing)
    (hopen : s.segOpen = false) (hv : v.toNat ≤ 999999) :
    eciBody v s = emit (bitsOf eciIndicator 4 ++ designatorBits v.toNat) s := by
  rw [eciBody, if_neg (between_passes hphase hopen), if_neg (not_lt.2 hv)]
  exact appendBits_bind (by decide) (by decide) ⟨rfl, rfl⟩ fun _ => appendBits_eciDesignator hv _

/-- Settles O29: on a legal value the body emits the indicator and the designator. -/
theorem eciEmitsIndicatorAndDesignator : Obligations.EciEmitsIndicatorAndDesignator := by
  intro v s hs
  split
  · next h => exact exec_error (i := .eci v) rfl hs (eciBody_invalid h)
  · next h =>
    simp only [not_or, not_not, Bool.not_eq_true, not_lt] at h
    obtain ⟨hphase, hopen, hv⟩ := h
    have hexec := exec_emit (i := .eci v) rfl hs (eciBody_eq hphase hopen hv) ⟨rfl, rfl⟩
    rw [grow, List.length_append, bitsOf_length] at hexec
    exact hexec

/-! ### SEG_BEGIN -/

theorem modeIndicator_lt (mode : Mode) : modeIndicator mode < 2 ^ 4 := by
  cases mode <;> decide

theorem countWidth_le (mode : Mode) (bucket : Nat) : countWidth mode bucket ≤ 16 := by
  unfold countWidth
  split <;> decide

theorem segBeginBody_invalid {count : BitVec 16} {mode : Mode} {s : State}
    (h : s.phase ≠ .framing ∨ s.segOpen = true ∨
      count.toNat ≥ 2 ^ countWidth mode s.bucket.toNat) :
    segBeginBody count mode s = .error .invalidArgument :=
  between_invalid h fun h => if_pos h

/-- A segment begun carries the FNC1 indicator where none has yet and FNC1 is set (R179). -/
def markFnc1 (s : State) : State := { s with fnc1Done := s.fnc1Done || s.fnc1 != .absent }

theorem markFnc1_eq_self {s : State} (h : (s.fnc1Done || s.fnc1 != .absent) = s.fnc1Done) :
    markFnc1 s = s := by
  rw [markFnc1, h]

/-- Where no FNC1 indicator is due, none is emitted. -/
theorem fnc1_not_due {s : State} (h : s.fnc1Done = true ∨ fnc1Indicator s.fnc1 = none) :
    fnc1Bits s = [] ∧ markFnc1 s = s ∧ emitFnc1 s = .ok s := by
  rcases h with hdone | hnone
  · refine ⟨if_pos hdone, markFnc1_eq_self (by simp [hdone]), ?_⟩
    cases hset : fnc1Indicator s.fnc1 <;> simp [emitFnc1, hset, hdone]
  · have habsent : s.fnc1 = .absent := by
      cases hset : s.fnc1 with
      | absent => rfl
      | first | second => rw [hset] at hnone; cases hnone
    exact ⟨by simp [fnc1Bits, habsent], markFnc1_eq_self (by simp [habsent]),
      by simp [emitFnc1, hnone]⟩

/-- Where the FNC1 indicator is due, its four bits are. -/
theorem fnc1_due {s : State} {indicator : Nat} (hdone : s.fnc1Done = false)
    (hset : fnc1Indicator s.fnc1 = some indicator) :
    fnc1Bits s = bitsOf indicator 4 ∧ indicator < 2 ^ 4 ∧
      markFnc1 s = { s with fnc1Done := true } := by
  cases hfnc1 : s.fnc1 with
  | absent => rw [hfnc1] at hset; cases hset
  | first | second =>
    rw [hfnc1] at hset
    cases hset
    exact ⟨by rw [fnc1Bits, hdone, hfnc1]; rfl, by decide, by simp [markFnc1, hfnc1]⟩

theorem emitFnc1_eq {s : State} (hcap : s.bitLen.toNat ≤ 8 * s.data.toNat) :
    emitFnc1 s = emit (fnc1Bits s) (markFnc1 s) := by
  by_cases hnone : s.fnc1Done = true ∨ fnc1Indicator s.fnc1 = none
  · obtain ⟨hbits, hmark, hemit⟩ := fnc1_not_due hnone
    rw [hbits, hmark, hemit, ok_eq_emit hcap]
  · obtain ⟨hdone, hsome⟩ := not_or.1 hnone
    obtain ⟨indicator, hset⟩ := Option.ne_none_iff_exists'.1 hsome
    obtain ⟨hbits, hlt, hmark⟩ := fnc1_due (by simpa using hdone) hset
    rw [hbits, hmark]
    unfold emitFnc1
    simp only [hset, hdone]
    exact appendBits_then (by decide) hlt ⟨rfl, rfl⟩ rfl

/-- The header of a segment (R178). -/
def headerBits (count : BitVec 16) (mode : Mode) (s : State) : List Bool :=
  bitsOf (modeIndicator mode) 4 ++ fnc1Bits s ++
    bitsOf count.toNat (countWidth mode s.bucket.toNat)

theorem segBeginBody_eq {count : BitVec 16} {mode : Mode} {s : State}
    (hphase : s.phase = .framing) (hopen : s.segOpen = false)
    (hcount : count.toNat < 2 ^ countWidth mode s.bucket.toNat) :
    segBeginBody count mode s =
      emit (headerBits count mode s) (openSegment mode count (markFnc1 s)) := by
  have hwidth := countWidth_le mode s.bucket.toNat
  rw [segBeginBody, if_neg (between_passes hphase hopen)]
  dsimp only
  rw [if_neg (not_le.2 hcount), headerBits, List.append_assoc]
  refine appendBits_bind (by decide) (modeIndicator_lt mode) ⟨rfl, rfl⟩ fun hfit => ?_
  rw [emitFnc1_eq hfit]
  refine emit_bind ⟨rfl, rfl⟩ fun _ => ?_
  exact appendBits_then (by omega) hcount ⟨rfl, rfl⟩ rfl

/-- Settles O30: with a count that fits its width the body emits the header. -/
theorem segBeginEmitsTheHeader : Obligations.SegBeginEmitsTheHeader := by
  intro count mode s hs
  dsimp only
  split
  · next h => exact exec_error (i := .segBegin count mode) rfl hs (segBeginBody_invalid h)
  · next h =>
    simp only [not_or, not_not, Bool.not_eq_true, not_le] at h
    obtain ⟨hphase, hopen, hcount⟩ := h
    exact exec_emit (i := .segBegin count mode) rfl hs
      (segBeginBody_eq hphase hopen hcount) ⟨rfl, rfl⟩

end Sys2Proof.Machine
end

section
/-! PROOFS. The characters a mode admits, with their values (spec/41_bitsink_framing.md R170 to
R176). -/

namespace Sys2Proof.Machine

open Sys2Proof.Claims

theorem numericValue_eq_some {c d : Nat} :
    numericValue c = some d ↔ 0x30 ≤ c ∧ c ≤ 0x39 ∧ d = c - 0x30 := by
  unfold numericValue
  split <;> simp only [Option.some.injEq, reduceCtorEq, false_iff] <;> omega

theorem byteValue_eq_some {c b : Nat} : byteValue c = some b ↔ c ≤ 0xFF ∧ b = c := by
  unfold byteValue
  split <;> simp only [Option.some.injEq, reduceCtorEq, false_iff] <;> omega

/-- No character above the last letter has a value. -/
theorem alnumValue_of_gt {c : Nat} (h : 0x5A < c) : alnumValue c = none := by
  unfold alnumValue
  rw [if_neg (by omega), if_neg (by omega)]
  split
  case h_10 => rfl
  all_goals omega

theorem alnumChars_of_alnumValue :
    ∀ c ≤ 0x5A, ∀ k ∈ alnumValue c, alnumChars[k]? = some c := by
  decide

theorem alnumValue_of_alnumChars :
    ∀ k < 45, ∀ c ∈ alnumChars[k]?, alnumValue c = some k := by
  decide

/-- The alphanumeric values are the places in the table (R171, R172). -/
theorem alnumValue_eq_some {c k : Nat} : alnumValue c = some k ↔ alnumChars[k]? = some c := by
  constructor
  · intro h
    refine alnumChars_of_alnumValue c (Nat.le_of_not_lt fun hgt => ?_) k h
    rw [alnumValue_of_gt hgt] at h
    cases h
  · intro h
    have hk : k < alnumChars.length := (List.getElem?_eq_some_iff.1 h).1
    exact alnumValue_of_alnumChars k hk c h

theorem kanjiPack_eq (offset : Nat) : kanjiPack offset = offset / 256 * 0xC0 + offset % 256 := by
  rw [kanjiPack, Nat.shiftRight_eq_div_pow, Nat.and_two_pow_sub_one_eq_mod offset 8]

theorem kanjiValue_eq_some {c v : Nat} :
    kanjiValue c = some v ↔
      (0x8140 ≤ c ∧ c ≤ 0x9FFC ∧ v = (c - 0x8140) / 256 * 0xC0 + (c - 0x8140) % 256) ∨
      (0xE040 ≤ c ∧ c ≤ 0xEBBF ∧ v = (c - 0xC140) / 256 * 0xC0 + (c - 0xC140) % 256) := by
  unfold kanjiValue
  rw [kanjiPack_eq, kanjiPack_eq]
  split
  · simp only [Option.some.injEq]
    omega
  split <;> simp only [Option.some.injEq, reduceCtorEq, false_iff] <;> omega

theorem kanjiValue_le {c v : Nat} (h : kanjiValue c = some v) : v ≤ 0x1FFF := by
  rw [kanjiValue_eq_some] at h
  omega

/-- How many values a mode's characters have. -/
def valueCount : Mode → Nat
  | .numeric => 10
  | .alphanumeric => 45
  | .byte => 2 ^ 8
  | .kanji => 2 ^ 13

theorem charValue_lt {mode : Mode} {c v : Nat} (h : charValue mode c = some v) :
    v < valueCount mode := by
  cases mode with
  | numeric => exact (charValue_valueOk h).1 rfl
  | alphanumeric => exact (charValue_valueOk h).2 rfl
  | byte =>
    obtain ⟨hc, rfl⟩ := byteValue_eq_some.1 h
    exact Nat.lt_succ_of_le hc
  | kanji => exact Nat.lt_succ_of_le (kanjiValue_le h)

/-- Settles O25: the classes by their value functions, the rest by the tables. -/
theorem characterClassesAndIndicatorsHold : Obligations.CharacterClassesAndIndicatorsHold :=
  ⟨fun _ _ => numericValue_eq_some, fun _ _ => alnumValue_eq_some, rfl, by decide,
    fun _ _ => byteValue_eq_some, fun _ _ => kanjiValue_eq_some, fun _ _ => kanjiValue_le, rfl,
    by decide, by decide, by decide, by decide, by decide⟩

end Sys2Proof.Machine
end

section
/-! PROOFS. PUT in closed form: the bits its character completes, and what is held after it
(spec/41_bitsink_framing.md R181 to R186). -/

namespace Sys2Proof.Machine

open Sys2Proof.Claims

/-! ### The held group -/

/-- A held group fits its two registers (R46). -/
theorem heldOk_lt {mode : Mode} {n v : Nat} (h : heldOk mode n v = true) : n < 4 ∧ v < 1024 := by
  cases mode <;> simp only [heldOk, Bool.and_eq_true, decide_eq_true_eq, beq_iff_eq] at h
  case numeric =>
    have : 10 ^ n ≤ 10 ^ 2 := Nat.pow_le_pow_right (by decide) h.1
    omega
  all_goals omega

/-- What a held group of a mode can be: digits, a first half, or nothing. -/
theorem heldOk_numeric {n v : Nat} (h : heldOk .numeric n v = true) :
    (n = 0 ∧ v = 0) ∨ (n = 1 ∧ v < 10) ∨ (n = 2 ∧ v < 100) := by
  obtain ⟨hn, hv⟩ : n ≤ 2 ∧ v < 10 ^ n := by simpa [heldOk] using h
  interval_cases n <;> omega

theorem heldOk_alphanumeric {n v : Nat} (h : heldOk .alphanumeric n v = true) :
    (n = 0 ∧ v = 0) ∨ (n = 1 ∧ v < 45) := by
  simp only [heldOk, Bool.and_eq_true, Bool.or_eq_true, decide_eq_true_eq, bne_iff_ne,
    beq_iff_eq] at h
  omega

theorem heldOk_whole {mode : Mode} {n v : Nat} (hmode : mode = .byte ∨ mode = .kanji)
    (h : heldOk mode n v = true) : n = 0 ∧ v = 0 := by
  rcases hmode with rfl | rfl <;> simpa [heldOk] using h

/-- The bits a held group is flushed as (R186). -/
def flushBits (mode : Mode) (n held : Nat) : List Bool :=
  match flushWidth mode n with
  | some w => bitsOf held w
  | none => []

/-- A segment's last character: what any character does, then the flush of what is held. -/
theorem putEffect_last {mode : Mode} {n held v : Nat} (hheld : heldOk mode n held = true) :
    putEffect mode n held v true =
      ((putEffect mode n held v false).1 ++ flushBits mode (putEffect mode n held v false).2.1
        (putEffect mode n held v false).2.2, 0, 0) := by
  cases mode with
  | numeric =>
    obtain ⟨rfl, rfl⟩ | ⟨rfl, -⟩ | ⟨rfl, -⟩ := heldOk_numeric hheld <;>
      simp [putEffect, flushBits, flushWidth]
  | alphanumeric =>
    obtain ⟨rfl, rfl⟩ | ⟨rfl, -⟩ := heldOk_alphanumeric hheld <;>
      simp [putEffect, flushBits, flushWidth]
  | byte | kanji => simp [putEffect, flushBits, flushWidth]

/-- The group `putEffect` leaves is one a mode can hold. -/
theorem putEffect_heldOk {mode : Mode} {n held v : Nat} (last : Bool)
    (hheld : heldOk mode n held = true) (hv : v < valueCount mode) :
    heldOk mode (putEffect mode n held v last).2.1 (putEffect mode n held v last).2.2 = true := by
  cases last with
  | true =>
    rw [putEffect_last hheld]
    exact heldOk_zero mode
  | false =>
    cases mode with
    | numeric =>
      have hv : v < 10 := hv
      obtain ⟨rfl, rfl⟩ | ⟨rfl, hlt⟩ | ⟨rfl, -⟩ := heldOk_numeric hheld
      · simpa [putEffect, heldOk] using hv
      · have htwo : held * 10 + v < 100 := by omega
        simpa [putEffect, heldOk] using htwo
      · rfl
    | alphanumeric =>
      have hv : v < 45 := hv
      obtain ⟨rfl, -⟩ | ⟨rfl, -⟩ := heldOk_alphanumeric hheld
      · simpa [putEffect, heldOk] using hv
      · rfl
    | byte | kanji => rfl

/-! ### PUT -/

/-- Digits go out in threes (R182). -/
theorem numericPut_eq {d : Nat} {s : State} (hcap : s.bitLen.toNat ≤ 8 * s.data.toNat)
    (hheld : heldOk .numeric s.pendN.toNat s.pendVal.toNat = true) (hd : d < 10) :
    numericPut d s =
      emit (putEffect .numeric s.pendN.toNat s.pendVal.toNat d false).1
        (hold (putEffect .numeric s.pendN.toNat s.pendVal.toNat d false).2.1
          (putEffect .numeric s.pendN.toNat s.pendVal.toNat d false).2.2 s) := by
  have hgroup := heldOk_numeric hheld
  unfold numericPut putEffect
  by_cases hthird : s.pendN.toNat + 1 = 3
  · simp only [if_pos hthird]
    exact appendBits_then (by decide) (by omega) ⟨rfl, rfl⟩ rfl
  · simp only [if_neg hthird]
    exact ok_eq_emit hcap

/-- Alphanumeric characters go out in pairs (R183). -/
theorem alnumPut_eq {k : Nat} {s : State} (hcap : s.bitLen.toNat ≤ 8 * s.data.toNat)
    (hheld : heldOk .alphanumeric s.pendN.toNat s.pendVal.toNat = true) (hk : k < 45) :
    alnumPut k s =
      emit (putEffect .alphanumeric s.pendN.toNat s.pendVal.toNat k false).1
        (hold (putEffect .alphanumeric s.pendN.toNat s.pendVal.toNat k false).2.1
          (putEffect .alphanumeric s.pendN.toNat s.pendVal.toNat k false).2.2 s) := by
  have hzero : s.pendN = 0 ↔ s.pendN.toNat = 0 := BitVec.toNat_inj.symm
  unfold alnumPut putEffect
  obtain ⟨hfirst, -⟩ | ⟨hsecond, hlt⟩ := heldOk_alphanumeric hheld
  · rw [if_pos (hzero.2 hfirst), hfirst]
    exact ok_eq_emit hcap
  · rw [if_neg (by rw [hzero, hsecond]; decide), hsecond]
    exact appendBits_then (by decide) (by omega) ⟨rfl, rfl⟩ rfl

/-- A byte or a Kanji character goes out whole, with nothing held (R184, R185). -/
theorem hold_whole {mode : Mode} {s : State} (hmode : mode = .byte ∨ mode = .kanji)
    (hheld : heldOk mode s.pendN.toNat s.pendVal.toNat = true) : hold 0 0 s = s := by
  obtain ⟨hn, hval⟩ := heldOk_whole hmode hheld
  have hself := hold_self s
  rwa [hn, hval] at hself

/-- The payload of a character is what `putEffect` says of one that is not the last (R182 to
R185). -/
theorem putValue_eq {mode : Mode} {v : Nat} {s : State} (hcap : s.bitLen.toNat ≤ 8 * s.data.toNat)
    (hheld : heldOk mode s.pendN.toNat s.pendVal.toNat = true) (hv : v < valueCount mode) :
    putValue mode v s =
      emit (putEffect mode s.pendN.toNat s.pendVal.toNat v false).1
        (hold (putEffect mode s.pendN.toNat s.pendVal.toNat v false).2.1
          (putEffect mode s.pendN.toNat s.pendVal.toNat v false).2.2 s) := by
  cases mode with
  | numeric => exact numericPut_eq hcap hheld hv
  | alphanumeric => exact alnumPut_eq hcap hheld hv
  | byte =>
    simp only [putEffect, hold_whole (.inl rfl) hheld]
    exact appendBits_eq_emit (by decide) hv s
  | kanji =>
    simp only [putEffect, hold_whole (.inr rfl) hheld]
    exact appendBits_eq_emit (by decide) hv s

/-- The width a held group is flushed in holds it. -/
theorem flushWidth_holds {mode : Mode} {n held w : Nat} (hheld : heldOk mode n held = true)
    (hw : flushWidth mode n = some w) : w ≤ 31 ∧ held < 2 ^ w := by
  cases mode with
  | numeric =>
    obtain ⟨rfl, -⟩ | ⟨rfl, hlt⟩ | ⟨rfl, hlt⟩ := heldOk_numeric hheld <;> cases hw <;> omega
  | alphanumeric =>
    obtain ⟨rfl, -⟩ | ⟨rfl, hlt⟩ := heldOk_alphanumeric hheld <;> cases hw
    omega
  | byte | kanji => cases hw

/-- The end of a segment: the flush of what is held (R186). -/
theorem segmentClose_eq {s : State} {n held : Nat} (hcap : s.bitLen.toNat ≤ 8 * s.data.toNat)
    (hn : s.pendN.toNat = n) (hval : s.pendVal.toNat = held)
    (hheld : heldOk s.segMode n held = true) :
    segmentClose s = emit (flushBits s.segMode n held) { hold 0 0 s with segOpen := false } := by
  unfold segmentClose flushBits
  rw [hn, hval]
  cases hw : flushWidth s.segMode n with
  | none => exact ok_eq_emit hcap
  | some w =>
    obtain ⟨hle, hlt⟩ := flushWidth_holds hheld hw
    exact appendBits_then hle hlt ⟨rfl, rfl⟩ rfl

/-- `hold` cuts nothing off a held group. -/
theorem hold_toNat {mode : Mode} {n held : Nat} (s : State) (h : heldOk mode n held = true) :
    (hold n held s).pendN.toNat = n ∧ (hold n held s).pendVal.toNat = held := by
  obtain ⟨hn, hval⟩ := heldOk_lt h
  exact ⟨(BitVec.toNat_ofNat n 2).trans (Nat.mod_eq_of_lt hn),
    (BitVec.toNat_ofNat held 10).trans (Nat.mod_eq_of_lt hval)⟩

/-- The state after a character that leaves `n` characters of value `held` held (R181, R186). -/
def putState (n held : Nat) (s : State) : State :=
  { hold n held s with
    remain := s.remain - 1
    segOpen := s.remain != 1 }

/-- PUT of a character in the segment's class emits its bits (R181). -/
theorem putBody_eq {c : BitVec 16} {s : State} {v : Nat} {e : List Bool × Nat × Nat}
    (hphase : s.phase = .framing) (hopen : s.segOpen = true)
    (hcap : s.bitLen.toNat ≤ 8 * s.data.toNat)
    (hheld : heldOk s.segMode s.pendN.toNat s.pendVal.toNat = true)
    (hv : charValue s.segMode c.toNat = some v)
    (he : putEffect s.segMode s.pendN.toNat s.pendVal.toNat v (s.remain == 1) = e) :
    putBody c s = emit e.1 (putState e.2.1 e.2.2 s) := by
  have hvalue := charValue_lt hv
  have hheld' := putEffect_heldOk false hheld hvalue
  rw [putBody, if_neg (by simp [hphase, hopen]), hv]
  show (putValue s.segMode v s >>= fun t => if t.remain - 1 = 0 then
    segmentClose { t with remain := t.remain - 1 } else .ok { t with remain := t.remain - 1 }) = _
  rw [putValue_eq hcap hheld hvalue]
  by_cases hlast : s.remain = 1
  · rw [hlast, beq_self_eq_true, putEffect_last hheld] at he
    subst he
    generalize putEffect s.segMode s.pendN.toNat s.pendVal.toNat v false = e at hheld' ⊢
    obtain ⟨hn, hval⟩ := hold_toNat s hheld'
    have hclosed : (s.remain != 1) = false := by simp [hlast]
    rw [putState, hclosed]
    exact emit_bind ⟨rfl, rfl⟩ fun hfit =>
      (if_pos (sub_eq_zero.2 hlast)).trans (segmentClose_eq hfit hn hval hheld')
  · rw [beq_false_of_ne hlast] at he
    subst he
    generalize putEffect s.segMode s.pendN.toNat s.pendVal.toNat v false = e
    have hstill : (s.remain != 1) = s.segOpen := by rw [hopen, bne_iff_ne]; exact hlast
    rw [putState, hstill]
    exact emit_then ⟨rfl, rfl⟩ (if_neg (mt sub_eq_zero.1 hlast))

theorem putBody_outside {c : BitVec 16} {s : State} (hphase : s.phase = .framing)
    (hopen : s.segOpen = true) (hc : charValue s.segMode c.toNat = none) :
    putBody c s = .error .incompatibleOverride := by
  rw [putBody, if_neg (by simp [hphase, hopen]), hc]

/-- Settles O31: the guard, then the class, then the bits `putEffect` says and the capacity. -/
theorem putEmitsWhatItsCharacterCompletes : Obligations.PutEmitsWhatItsCharacterCompletes := by
  intro c s hs ⟨_, hcap⟩ ⟨_, hheld, _⟩
  split
  · next h => exact exec_error (i := .put c) rfl hs (if_pos h)
  · next h =>
    simp only [not_or, not_not, Bool.not_eq_false] at h
    obtain ⟨hphase, hopen⟩ := h
    split
    · next hc => exact exec_error (i := .put c) rfl hs (putBody_outside hphase hopen hc)
    · next v hv =>
      exact exec_emit (i := .put c) rfl hs (putBody_eq hphase hopen hcap hheld hv rfl) ⟨rfl, rfl⟩

end Sys2Proof.Machine
end

section
/-! PROOFS. A whole segment, SEG_BEGIN and its PUTs (spec/41_bitsink_framing.md R187, R196). -/

namespace Sys2Proof.Machine

open Sys2Proof.Claims

/-! ### How many bits are still to come -/

/-- Three digits more take ten bits more (R182, R187). -/
theorem payloadBits_numeric_add_three (c : Nat) :
    payloadBits .numeric (c + 3) = 10 + payloadBits .numeric c := by
  simp only [payloadBits, Nat.add_mod_right, Nat.add_div_right c (show 0 < 3 by decide)]
  omega

/-- A character takes what it emits off the payload still to come; the held characters count as ones
to come. -/
theorem payloadBits_put {mode : Mode} {n held : Nat} (v c : Nat)
    (hheld : heldOk mode n held = true) :
    payloadBits mode (n + (c + 1)) = (putEffect mode n held v (c == 0)).1.length +
      payloadBits mode ((putEffect mode n held v (c == 0)).2.1 + c) := by
  cases mode with
  | numeric =>
    obtain ⟨rfl, -⟩ | ⟨rfl, -⟩ | ⟨rfl, -⟩ := heldOk_numeric hheld
    · cases c with
      | zero => simp [putEffect, payloadBits]
      | succ c => simp [putEffect, Nat.add_comm]
    · cases c with
      | zero => simp [putEffect, payloadBits]
      | succ c => simp [putEffect, show 1 + (c + 1 + 1) = 2 + (c + 1) by omega]
    · rw [show 2 + (c + 1) = c + 3 by omega, payloadBits_numeric_add_three]
      simp [putEffect]
  | alphanumeric =>
    obtain ⟨rfl, -⟩ | ⟨rfl, -⟩ := heldOk_alphanumeric hheld
    · cases c with
      | zero => simp [putEffect, payloadBits]
      | succ c => simp [putEffect, Nat.add_comm]
    · simp only [putEffect, payloadBits, if_true, bitsOf_length]
      omega
  | byte =>
    obtain ⟨rfl, -⟩ := heldOk_whole (.inl rfl) hheld
    simp only [putEffect, payloadBits, bitsOf_length]
    omega
  | kanji =>
    obtain ⟨rfl, -⟩ := heldOk_whole (.inr rfl) hheld
    simp only [putEffect, payloadBits, bitsOf_length]
    omega

/-! ### The characters of a segment -/

/-- The segment state after a character is consistent again (R46). -/
theorem putState_segmentOk {s : State} {v : Nat} {e : List Bool × Nat × Nat}
    (hheld : heldOk s.segMode s.pendN.toNat s.pendVal.toNat = true)
    (hv : v < valueCount s.segMode)
    (he : putEffect s.segMode s.pendN.toNat s.pendVal.toNat v (s.remain == 1) = e) :
    SegmentOk (putState e.2.1 e.2.2 s) := by
  refine ⟨?_, ?_, fun hclosed => ?_⟩
  · show (s.remain != 1) = true ↔ s.remain - 1 ≠ 0
    rw [bne_iff_ne, ne_eq, ne_eq, sub_eq_zero]
  · subst he
    exact heldOk_hold (putEffect_heldOk _ hheld hv)
  · have hlast : s.remain = 1 := by simpa using bne_eq_false_iff_eq.1 hclosed
    rw [hlast, beq_self_eq_true, putEffect_last hheld] at he
    subst he
    exact ⟨rfl, rfl⟩

/-- A segment just begun is open unless it has no characters, and holds nothing (R178). -/
theorem openSegment_segmentOk (mode : Mode) (count : BitVec 16) (s : State) :
    SegmentOk (openSegment mode count s) := by
  refine ⟨?_, heldOk_zero mode, fun _ => ⟨rfl, rfl⟩⟩
  rw [openSegment_segOpen, openSegment_remain, decide_eq_true_iff, ne_eq, ← BitVec.toNat_inj]
  exact Nat.pos_iff_ne_zero

/-- How a segment ends whose last bit would be the buffer's bit `len`: closed, or in ERROR where the
capacity does not reach so far. -/
def SegmentEnds (len cap : Nat) (t : State) : Prop :=
  if len ≤ cap then t.phase = .framing ∧ t.segOpen = false ∧ t.bitLen.toNat = len
  else t.phase = .error ∧ t.err = .dataTooLong

theorem exec_put_in_error {s : State} (h : s.phase = .error) (c : BitVec 16) :
    exec (.put c) s = .next s :=
  (exec_eq_command (i := .put c) rfl s).trans (command_in_error h)

/-- ERROR ignores every PUT (R323). -/
theorem performAll_puts_in_error {s : State} (h : s.phase = .error) (chars : List (BitVec 16)) :
    performAll (chars.map .put) s = some s := by
  induction chars with
  | nil => rfl
  | cons c chars ih => exact (performAll_cons (exec_put_in_error h c)).trans ih

/-- A command of a segment whose bits the capacity does not hold ends it. -/
theorem performAll_too_long {i : Instr} {chars : List (BitVec 16)} {s : State} {len cap : Nat}
    (hexec : exec i s = .next (errorEntry .dataTooLong i.opcode s)) (hlen : cap < len) :
    ∃ t, performAll (i :: chars.map .put) s = some t ∧ SegmentEnds len cap t := by
  refine ⟨_, (performAll_cons hexec).trans (performAll_puts_in_error rfl chars), ?_⟩
  rw [SegmentEnds, if_neg (not_le.2 hlen)]
  exact ⟨rfl, rfl⟩

/-- The characters still to come of an open segment. -/
theorem performAll_puts {chars : List (BitVec 16)} {s : State} (hphase : s.phase = .framing)
    (hseg : SegmentOk s) (hcap : s.bitLen.toNat ≤ 8 * s.data.toNat)
    (hremain : s.remain.toNat = chars.length)
    (hclass : ∀ c ∈ chars, (charValue s.segMode c.toNat).isSome) :
    ∃ t, performAll (chars.map .put) s = some t ∧
      SegmentEnds (s.bitLen.toNat + payloadBits s.segMode (s.pendN.toNat + chars.length))
        (8 * s.data.toNat) t := by
  induction chars generalizing s with
  | nil =>
    obtain ⟨hopen, -, hclosed⟩ := hseg
    have hzero : s.remain = 0 := BitVec.eq_of_toNat_eq hremain
    have hshut : s.segOpen = false := by simpa [hzero] using hopen
    have hpayload : payloadBits s.segMode (s.pendN.toNat + 0) = 0 := by
      rw [(hclosed hshut).1]
      cases s.segMode <;> rfl
    refine ⟨s, rfl, ?_⟩
    rw [List.length_nil, hpayload, Nat.add_zero, SegmentEnds, if_pos hcap]
    exact ⟨hphase, hshut, rfl⟩
  | cons c chars ih =>
    obtain ⟨hopen, hheld, -⟩ := hseg
    obtain ⟨hc, hclass⟩ := List.forall_mem_cons.1 hclass
    obtain ⟨v, hv⟩ := Option.isSome_iff_exists.1 hc
    rw [List.length_cons] at hremain ⊢
    have hopen : s.segOpen = true := hopen.2 fun hzero => by simp [hzero] at hremain
    have hlast : (s.remain == 1) = (chars.length == 0) := by
      rw [Bool.eq_iff_iff, beq_iff_eq, beq_iff_eq, ← BitVec.toNat_inj, hremain]
      exact Nat.add_eq_right
    have hpayload := payloadBits_put v chars.length hheld
    rw [← hlast] at hpayload
    generalize he : putEffect s.segMode s.pendN.toNat s.pendVal.toNat v (s.remain == 1) = e
      at hpayload
    have hok := putState_segmentOk hheld (charValue_lt hv) he
    have hexec := exec_emit (i := .put c) rfl (by simp [hphase])
      (putBody_eq hphase hopen hcap hheld hv he) ⟨rfl, rfl⟩
    rw [hpayload]
    by_cases hfit : s.bitLen.toNat + e.1.length > 8 * s.data.toNat
    · rw [if_pos hfit] at hexec
      exact performAll_too_long hexec (by omega)
    · rw [if_neg hfit] at hexec
      rw [List.map_cons, performAll_cons hexec]
      have hlen : (grow e.1 (putState e.2.1 e.2.2 s)).bitLen.toNat = s.bitLen.toNat + e.1.length :=
        grow_bitLen (s := putState e.2.1 e.2.2 s) (.inr (not_lt.1 hfit))
      have hheld : (grow e.1 (putState e.2.1 e.2.2 s)).pendN.toNat = e.2.1 := by
        subst he
        exact (hold_toNat s (putEffect_heldOk _ hheld (charValue_lt hv))).1
      have hremain' : (s.remain - 1).toNat = chars.length := by bv_omega
      have hrest := ih (s := grow e.1 (putState e.2.1 e.2.2 s)) hphase hok
        (hlen.trans_le (not_lt.1 hfit)) hremain' hclass
      rw [hlen, hheld, Nat.add_assoc] at hrest
      exact hrest

/-- Settles O32: the header, then the characters, one PUT after another (`performAll_puts`). -/
theorem segmentTakesItsBitLength : Obligations.SegmentTakesItsBitLength := by
  intro mode chars s hphase hopen hclass hlength
  have hcount : (BitVec.ofNat 16 chars.length).toNat = chars.length :=
    (BitVec.toNat_ofNat _ 16).trans (Nat.mod_eq_of_lt (hlength.trans_le
      (Nat.pow_le_pow_right (by decide) (countWidth_le mode s.bucket.toNat))))
  generalize BitVec.ofNat 16 chars.length = count at hcount
  have hheader : (headerBits count mode s).length + payloadBits mode chars.length =
      segmentBits mode s.bucket.toNat (fnc1Bits s).length chars.length := by
    simp only [headerBits, segmentBits, List.length_append, bitsOf_length]
  have hexec := exec_emit (i := .segBegin count mode) rfl (by simp [hphase])
    (segBeginBody_eq hphase hopen (hcount ▸ hlength)) ⟨rfl, rfl⟩
  show ∃ t, performAll (.segBegin count mode :: chars.map .put) s = some t ∧
    SegmentEnds (s.bitLen.toNat + segmentBits mode s.bucket.toNat (fnc1Bits s).length chars.length)
      (8 * s.data.toNat) t
  rw [← hheader, ← Nat.add_assoc]
  by_cases hfit : s.bitLen.toNat + (headerBits count mode s).length > 8 * s.data.toNat
  · rw [if_pos hfit] at hexec
    exact performAll_too_long hexec (by omega)
  · rw [if_neg hfit] at hexec
    rw [performAll_cons hexec]
    have hlen := grow_bitLen (s := openSegment mode count (markFnc1 s)) (.inr (not_lt.1 hfit))
    have hrest := performAll_puts (chars := chars)
      (s := grow (headerBits count mode s) (openSegment mode count (markFnc1 s))) hphase
      (openSegment_segmentOk mode count (markFnc1 s)) (hlen.trans_le (not_lt.1 hfit)) hcount hclass
    rw [hlen] at hrest
    have hnone : payloadBits mode (0 + chars.length) = payloadBits mode chars.length := by
      rw [Nat.zero_add]
    rw [← hnone]
    exact hrest

end Sys2Proof.Machine
end

section
/-! PROOFS. The data codewords FINISH packs (spec/41_bitsink_framing.md R194, spec/20_memory.md
R89). -/

namespace Sys2Proof.Machine

open Sys2Proof.Claims

/-- One round of `packByte`: the byte shifted left by one, a bit put below. -/
def pushBit (b : Byte) (bit : Bool) : Byte := (b <<< 1) ||| (BitVec.ofBool bit).setWidth 8

theorem packByte_eq_foldl (bits : List Bool) : packByte bits = bits.foldl pushBit 0 := rfl

theorem getLsbD_pushBit (b : Byte) (bit : Bool) {i : Nat} (hi : i < 8) :
    (pushBit b bit).getLsbD i = if i = 0 then bit else b.getLsbD (i - 1) := by
  cases i with
  | zero => simp [pushBit]
  | succ i => simp [pushBit, hi, Nat.lt_of_succ_lt hi]

/-- The last bit pushed is the lowest (R89). -/
theorem getLsbD_foldl_pushBit (bits : List Bool) (b : Byte) {i : Nat} (hi : i < 8) :
    (bits.foldl pushBit b).getLsbD i =
      if i < bits.length then bits.getD (bits.length - 1 - i) false
      else b.getLsbD (i - bits.length) := by
  induction bits generalizing b with
  | nil => simp
  | cons bit bits ih =>
    rw [List.foldl_cons, ih, List.length_cons]
    rcases Nat.lt_trichotomy i bits.length with hlt | rfl | hgt
    · rw [if_pos hlt, if_pos (by omega),
        show bits.length + 1 - 1 - i = bits.length - 1 - i + 1 by omega, List.getD_cons_succ]
    · rw [if_neg (Nat.lt_irrefl _), Nat.sub_self, getLsbD_pushBit _ _ (by decide), if_pos rfl,
        if_pos (Nat.lt_succ_self _), Nat.add_sub_cancel, Nat.sub_self, List.getD_cons_zero]
    · rw [if_neg (by omega), getLsbD_pushBit _ _ (by omega), if_neg (by omega), if_neg (by omega),
        Nat.sub_sub]

theorem packByte_getLsbD {bits : List Bool} (hbits : bits.length = 8) {k : Nat} (hk : k < 8) :
    (packByte bits).getLsbD (7 - k) = bits.getD k false := by
  rw [packByte_eq_foldl, getLsbD_foldl_pushBit _ _ (by omega), hbits, if_pos (by omega)]
  congr 1
  omega

/-- Codeword `j` is packed from the bits after the first `8 j`. -/
theorem entry_packBytes {n j : Nat} (bits : List Bool) (hj : j < n) :
    entry (packBytes n bits) j =
      packByte ((bits.drop (8 * j) ++ List.replicate 8 false).take 8) := by
  induction n generalizing j bits with
  | zero => cases hj
  | succ n ih =>
    cases j with
    | zero => rfl
    | succ j =>
      have hdrop : bits.drop (8 * (j + 1)) = (bits.drop 8).drop (8 * j) := by
        rw [List.drop_drop, Nat.mul_succ, Nat.add_comm]
      rw [hdrop, ← ih (bits.drop 8) (Nat.lt_of_succ_lt_succ hj)]
      rfl

/-- The first bit of a codeword is its most significant (R89, R194). -/
theorem entry_packBytes_getLsbD {n j k : Nat} (bits : List Bool) (hj : j < n) (hk : k < 8) :
    (entry (packBytes n bits) j).getLsbD (7 - k) = bits.getD (8 * j + k) false := by
  rw [entry_packBytes bits hj, packByte_getLsbD (by simp) hk]
  simp only [List.getD_eq_getElem?_getD, List.getElem?_take_of_lt hk]
  by_cases hin : k < (bits.drop (8 * j)).length
  · rw [List.getElem?_append_left hin, List.getElem?_drop]
  · rw [List.getElem?_append_right (by omega), List.getElem?_eq_none (l := bits)
      (by simp at hin; omega), List.getElem?_replicate]
    split <;> rfl

/-- Settles O33: FINISH's closed form, read bit by bit. -/
theorem finishPadsAndPacks : Obligations.FinishPadsAndPacks := by
  intro s hphase hopen hbuf
  obtain ⟨hlen, hcap⟩ := hbuf
  have hexec : exec .finish s = .next (finishedState s) :=
    (exec_eq_command (i := .finish) rfl s).trans
      (command_ok (by simp [hphase]) (finishBody_eq hphase hopen ⟨hlen, hcap⟩))
  refine ⟨?_, finishedState s, hexec, rfl, fun j hj k hk => ?_, fun j hj => ?_⟩
  · rw [paddedBits_eq, List.length_append]
    exact finishBits_length (Nat.mul_mod_right 8 _) (hlen ▸ hcap)
  · rw [finishedState, entry_overwrite, packBytes_length, if_pos hj]
    exact entry_packBytes_getLsbD _ hj hk
  · exact entry_packed_of_ge _ _ hj

end Sys2Proof.Machine
end

section
/-! PROOFS. The field GF(2^8) (spec/42_rs_codec.md R200 to R203): the multiplier is linear over
XOR in each operand, so its other laws are checked on the eight powers of 2. -/

namespace Sys2Proof.Machine

open Sys2Proof.Claims

/-! ### Linearity of the multiplier -/

/-- The reduction of a round clears the ninth bit (R201). -/
theorem gfRound_getLsbD_eight (x y : Byte) (z : BitVec 9) (i : Nat) :
    (gfRound x y z i).getLsbD 8 = false := by
  have hshift : (z <<< 1).getLsbD 8 = z.getLsbD 7 := by simp
  have hreduce : (if z.getLsbD 7 then 0x11D#9 else 0#9).getLsbD 8 = z.getLsbD 7 := by
    cases z.getLsbD 7 <;> rfl
  have hadd : (if y.getLsbD i then x.setWidth 9 else 0#9).getLsbD 8 = false := by
    split <;> simp
  rw [gfRound, BitVec.getLsbD_xor, BitVec.getLsbD_xor, hshift, hreduce, hadd, Bool.xor_self]
  rfl

theorem gfMulWide_toNat_lt (x y : Byte) : (gfMulWide x y).toNat < 256 := by
  have hlast : (gfMulWide x y).getLsbD 8 = false := gfRound_getLsbD_eight x y _ 0
  have hlt := (gfMulWide x y).isLt
  rw [BitVec.getLsbD, Nat.testBit_eq_decide_div_mod_eq, decide_eq_false_iff_not] at hlast
  omega

/-- A value taken when a bit is set is linear in the bit. -/
theorem ite_xor_ite {w : Nat} (a b : Bool) (c : BitVec w) :
    (if (a ^^ b) = true then c else 0#w) =
      (if a = true then c else 0#w) ^^^ (if b = true then c else 0#w) := by
  cases a <;> cases b <;> simp

theorem gfRound_xor_right (x y y' : Byte) (z z' : BitVec 9) (i : Nat) :
    gfRound x (y ^^^ y') (z ^^^ z') i = gfRound x y z i ^^^ gfRound x y' z' i := by
  simp only [gfRound, BitVec.getLsbD_xor, BitVec.shiftLeft_xor_distrib, ite_xor_ite]
  ac_rfl

theorem gfRound_xor_left (x x' y : Byte) (z z' : BitVec 9) (i : Nat) :
    gfRound (x ^^^ x') y (z ^^^ z') i = gfRound x y z i ^^^ gfRound x' y z' i := by
  have hterm : (if y.getLsbD i then (x ^^^ x').setWidth 9 else 0#9) =
      (if y.getLsbD i then x.setWidth 9 else 0#9) ^^^
        (if y.getLsbD i then x'.setWidth 9 else 0#9) := by
    split <;> simp
  simp only [gfRound, BitVec.getLsbD_xor, BitVec.shiftLeft_xor_distrib, ite_xor_ite, hterm]
  ac_rfl

/-- R202: multiplication distributes over XOR on the right. -/
theorem gfMul_xor (x y y' : Byte) : gfMul x (y ^^^ y') = gfMul x y ^^^ gfMul x y' := by
  have hfold := List.foldl_hom₂ [7, 6, 5, 4, 3, 2, 1, 0] (· ^^^ ·) _ _ _ 0#9 0#9
    fun z z' i => (gfRound_xor_right x y y' z z' i).symm
  simp only [gfMul, gfMulWide, ← BitVec.setWidth_xor, ← hfold, BitVec.xor_self]

/-- R202: multiplication distributes over XOR on the left. -/
theorem xor_gfMul (x x' y : Byte) : gfMul (x ^^^ x') y = gfMul x y ^^^ gfMul x' y := by
  have hfold := List.foldl_hom₂ [7, 6, 5, 4, 3, 2, 1, 0] (· ^^^ ·) _ _ _ 0#9 0#9
    fun z z' i => (gfRound_xor_left x x' y z z' i).symm
  simp only [gfMul, gfMulWide, ← BitVec.setWidth_xor, ← hfold, BitVec.xor_self]

/-! ### Laws checked on the powers of 2 -/

/-- The bytes with one bit set: every byte is an XOR of some of them. -/
def basisBytes : List Byte := (List.range 8).map fun i => 1#8 <<< i

theorem byte_eq_xor_of_basis : ∀ x : Byte,
    ((List.range 8).map fun i => if x.getLsbD i then 1#8 <<< i else 0).foldl (· ^^^ ·) 0 = x := by
  decide

/-- What holds of the powers of 2 and passes to an XOR holds of every byte. -/
theorem byte_xor_induction {P : Byte → Prop} (hbasis : ∀ b ∈ basisBytes, P b)
    (hxor : ∀ a b, P a → P b → P (a ^^^ b)) (x : Byte) : P x := by
  have hzero : P 0 := by
    have hone := hbasis 1#8 (by decide)
    simpa using hxor 1#8 1#8 hone hone
  have hfold (l : List Byte) (hl : ∀ b ∈ l, P b) (z : Byte) (hz : P z) :
      P (l.foldl (· ^^^ ·) z) := by
    induction l generalizing z with
    | nil => exact hz
    | cons b l ih =>
      obtain ⟨hb, hl⟩ := List.forall_mem_cons.1 hl
      exact ih hl _ (hxor z b hz hb)
  rw [← byte_eq_xor_of_basis x]
  refine hfold _ (fun b hb => ?_) 0 hzero
  obtain ⟨i, hi, rfl⟩ := List.mem_map.1 hb
  split
  · exact hbasis _ (List.mem_map_of_mem hi)
  · exact hzero

@[simp] theorem gfMul_one (x : Byte) : gfMul x 1#8 = x := by
  induction x using byte_xor_induction with
  | hbasis b hb => exact (by decide : ∀ b ∈ basisBytes, gfMul b 1#8 = b) b hb
  | hxor a b ha hb => rw [xor_gfMul, ha, hb]

@[simp] theorem gfMul_zero (x : Byte) : gfMul x 0#8 = 0#8 := by
  simpa using gfMul_xor x 0#8 0#8

@[simp] theorem zero_gfMul (x : Byte) : gfMul 0#8 x = 0#8 := by
  simpa using xor_gfMul 0#8 0#8 x

theorem gfMul_comm (x y : Byte) : gfMul x y = gfMul y x := by
  induction x using byte_xor_induction with
  | hxor a b ha hb => rw [xor_gfMul, gfMul_xor, ha, hb]
  | hbasis a ha =>
    induction y using byte_xor_induction with
    | hxor b c hb hc => rw [xor_gfMul, gfMul_xor, hb, hc]
    | hbasis b hb =>
      exact (by decide +kernel : ∀ a ∈ basisBytes, ∀ b ∈ basisBytes,
        gfMul a b = gfMul b a) a ha b hb

@[simp] theorem one_gfMul (x : Byte) : gfMul 1#8 x = x := by
  rw [gfMul_comm, gfMul_one]

theorem gfMul_right_comm (x y z : Byte) : gfMul (gfMul x y) z = gfMul (gfMul x z) y := by
  induction x using byte_xor_induction with
  | hxor a b ha hb => simp only [xor_gfMul, ha, hb]
  | hbasis a ha =>
    induction y using byte_xor_induction with
    | hxor b c hb hc => simp only [gfMul_xor, xor_gfMul, hb, hc]
    | hbasis b hb =>
      induction z using byte_xor_induction with
      | hxor c d hc hd => simp only [gfMul_xor, xor_gfMul, hc, hd]
      | hbasis c hc =>
        exact (by decide +kernel : ∀ a ∈ basisBytes, ∀ b ∈ basisBytes, ∀ c ∈ basisBytes,
          gfMul (gfMul a b) c = gfMul (gfMul a c) b) a ha b hb c hc

/-! ### The order of the primitive element -/

theorem gfPow_eq_iterate (x : Byte) (k : Nat) : gfPow x k = (fun z => gfMul z x)^[k] 1 := by
  induction k with
  | zero => rfl
  | succ k ih => rw [Function.iterate_succ_apply', ← ih, gfPow]

theorem gfPow_eq_one_iff (x : Byte) (k : Nat) :
    gfPow x k = 1 ↔ Function.IsPeriodicPt (fun z => gfMul z x) k 1 := by
  rw [gfPow_eq_iterate, Function.IsPeriodicPt, Function.IsFixedPt]

theorem gfPow_alpha_255 : gfPow alpha 255 = 1 := by decide +kernel

/-- The powers that rule out every proper divisor of 255 = 3 * 5 * 17 as the order of alpha. -/
theorem gfPow_alpha_maximal_divisors :
    gfPow alpha 15 ≠ 1 ∧ gfPow alpha 51 ≠ 1 ∧ gfPow alpha 85 ≠ 1 := by
  decide +kernel

theorem dvd_maximal_divisor :
    ∀ g < 255, g ∣ 255 → g ∣ 15 ∨ g ∣ 51 ∨ g ∣ 85 := by
  decide +kernel

/-- R202: a smaller order of alpha would divide 255, so one of 15, 51 and 85. -/
theorem gfPow_alpha_ne_one {k : Nat} (hpos : 0 < k) (hlt : k < 255) : gfPow alpha k ≠ 1 := by
  intro hk
  have hgcd := ((gfPow_eq_one_iff alpha k).1 hk).gcd
    ((gfPow_eq_one_iff alpha 255).1 gfPow_alpha_255)
  have hle : k.gcd 255 < 255 := (Nat.gcd_le_left 255 hpos).trans_lt hlt
  obtain ⟨h15, h51, h85⟩ := gfPow_alpha_maximal_divisors
  rcases dvd_maximal_divisor _ hle (Nat.gcd_dvd_right k 255) with hdvd | hdvd | hdvd
  · exact h15 ((gfPow_eq_one_iff alpha 15).2 (hgcd.trans_dvd hdvd))
  · exact h51 ((gfPow_eq_one_iff alpha 51).2 (hgcd.trans_dvd hdvd))
  · exact h85 ((gfPow_eq_one_iff alpha 85).2 (hgcd.trans_dvd hdvd))

/-- Settles O34: every round clears the bit its shift can carry out. -/
theorem fieldProductIsAByte : Obligations.FieldProductIsAByte := gfMulWide_toNat_lt

/-- Settles O35: the laws by linearity, the order of alpha by the maximal divisors of 255. -/
theorem fieldLawsHold : Obligations.FieldLawsHold := by
  have h254 : gfPow alpha 254 = 0x8E#8 := by decide +kernel
  have hinv : gfMul alpha 0x8E#8 = 1 := by decide
  exact ⟨gfMul_comm, gfMul_xor, gfMul_one, gfMul_zero,
    ⟨gfPow_alpha_255, fun k => gfPow_alpha_ne_one⟩, h254, (congrArg (gfMul alpha) h254).trans hinv,
    (congrArg (gfMul alpha) gfPow_alpha_255).trans (gfMul_one alpha)⟩

end Sys2Proof.Machine
end

section
/-! PROOFS. Polynomials over GF(2^8) as lists of coefficients, the divisor and the remainder
(spec/42_rs_codec.md R205 to R208): their values at a point, by Horner's rule. -/

namespace Sys2Proof.Machine

open Sys2Proof.Claims

/-! ### Horner's rule -/

/-- Horner's rule from an accumulator: the value of `acc` followed by the coefficients. -/
def horner (x acc : Byte) (l : List Byte) : Byte := l.foldl (fun acc c => gfMul acc x ^^^ c) acc

@[simp] theorem horner_nil (x acc : Byte) : horner x acc [] = acc := rfl

@[simp] theorem horner_cons (x acc c : Byte) (l : List Byte) :
    horner x acc (c :: l) = horner x (gfMul acc x ^^^ c) l := rfl

theorem horner_append (x acc : Byte) (l m : List Byte) :
    horner x acc (l ++ m) = horner x (horner x acc l) m := List.foldl_append

theorem evalPoly_eq_horner (l : List Byte) (x : Byte) : evalPoly l x = horner x 0#8 l := rfl

theorem evalPoly_cons (c : Byte) (l : List Byte) (x : Byte) :
    evalPoly (c :: l) x = horner x c l := by
  rw [evalPoly_eq_horner, horner_cons, zero_gfMul, BitVec.zero_xor]

theorem horner_concat_zero (x acc : Byte) (l : List Byte) :
    horner x acc (l ++ [0#8]) = gfMul (horner x acc l) x := by
  rw [horner_append, horner_cons, horner_nil, BitVec.xor_zero]

/-- The value of a sum is the sum of the values. -/
theorem horner_zipWith_xor (x : Byte) {l m : List Byte} (h : l.length = m.length) (a b : Byte) :
    horner x (a ^^^ b) (List.zipWith (· ^^^ ·) l m) = horner x a l ^^^ horner x b m := by
  induction l generalizing m a b with
  | nil =>
    cases m with
    | nil => rfl
    | cons _ _ => cases h
  | cons c l ih =>
    cases m with
    | nil => cases h
    | cons d m =>
      rw [List.zipWith_cons_cons, horner_cons, horner_cons, horner_cons, ← ih (Nat.succ.inj h),
        xor_gfMul]
      congr 1
      ac_rfl

/-- The value of a multiple is the multiple of the value. -/
theorem horner_map_gfMul (x k a : Byte) (l : List Byte) :
    horner x (gfMul a k) (l.map (gfMul · k)) = gfMul (horner x a l) k := by
  induction l generalizing a with
  | nil => rfl
  | cons c l ih =>
    rw [List.map_cons, horner_cons, horner_cons, ← ih, xor_gfMul, gfMul_right_comm]

/-- Zeros count for nothing where multiplication by the point keeps the accumulator. -/
theorem horner_replicate_zero {x acc : Byte} (h : gfMul acc x = acc) (n : Nat) :
    horner x acc (List.replicate n 0#8) = acc := by
  induction n with
  | zero => rfl
  | succ n ih => rw [List.replicate_succ, horner_cons, h, BitVec.xor_zero, ih]

/-! ### The coefficients moved up by one degree -/

/-- The coefficients below the highest after a multiplication by x. -/
def shiftUp (g : List Byte) : List Byte := g.drop 1 ++ [0#8]

@[simp] theorem shiftUp_cons (c : Byte) (g : List Byte) : shiftUp (c :: g) = g ++ [0#8] := rfl

theorem shiftUp_length {g : List Byte} (h : g ≠ []) : (shiftUp g).length = g.length := by
  obtain ⟨c, g, rfl⟩ := List.exists_cons_of_ne_nil h
  rw [shiftUp_cons, List.length_append, List.length_singleton, List.length_cons]

/-- Multiplication by x, the highest coefficient put into the accumulator. -/
theorem horner_shiftUp (x acc : Byte) {g : List Byte} (h : g ≠ []) :
    horner x (gfMul acc x ^^^ g.headD 0#8) (shiftUp g) = gfMul (horner x acc g) x := by
  obtain ⟨c, g, rfl⟩ := List.exists_cons_of_ne_nil h
  rw [shiftUp_cons, horner_concat_zero, List.headD_cons, horner_cons]

theorem timesRoot_eq (root : Byte) (g : List Byte) :
    timesRoot root g = List.zipWith (· ^^^ ·) (g.map (gfMul · root)) (shiftUp g) := by
  rw [timesRoot, shiftUp, List.zipWith_map_left]

theorem remainderStep_eq (g r : List Byte) (b : Byte) :
    remainderStep g r b =
      List.zipWith (· ^^^ ·) (shiftUp r) (g.map (gfMul · (b ^^^ r.headD 0#8))) := by
  rw [List.zipWith_map_right]
  rfl

/-! ### The divisor (R205) -/

/-- `timesRoot` computes the product with (x - root), whose highest coefficient is that of `g`. -/
theorem horner_timesRoot (x root : Byte) {g : List Byte} (h : g ≠ []) :
    horner x (g.headD 0#8) (timesRoot root g) =
      gfMul (evalPoly g x) root ^^^ gfMul (evalPoly g x) x := by
  have hlen : (g.map (gfMul · root)).length = (shiftUp g).length := by
    rw [shiftUp_length h, List.length_map]
  have hmul := horner_map_gfMul x root 0#8 g
  have hshift := horner_shiftUp x 0#8 h
  rw [zero_gfMul] at hmul
  rw [zero_gfMul, BitVec.zero_xor] at hshift
  rw [timesRoot_eq, evalPoly_eq_horner, ← hmul, ← hshift, ← horner_zipWith_xor x hlen,
    BitVec.zero_xor]

/-- A leading zero of the factor makes room for the highest coefficient of the product. -/
theorem timesRoot_zero_cons (root : Byte) {g : List Byte} (h : g ≠ []) :
    timesRoot root (0#8 :: g) = g.headD 0#8 :: timesRoot root g := by
  obtain ⟨c, g, rfl⟩ := List.exists_cons_of_ne_nil h
  simp [timesRoot_eq]

/-- While leading zeros are left, the product stays monic behind one zero fewer. -/
theorem timesRoot_monic (root : Byte) (k : Nat) (rest : List Byte) :
    timesRoot root (List.replicate (k + 1) 0#8 ++ 1#8 :: rest) =
      List.replicate k 0#8 ++ 1#8 :: timesRoot root (1#8 :: rest) := by
  induction k with
  | zero => exact timesRoot_zero_cons root (List.cons_ne_nil _ _)
  | succ k ih =>
    rw [List.replicate_succ, List.cons_append, timesRoot_zero_cons root (by simp), ih]
    rfl

/-- A round keeps the zeros of a monic polynomial and adds the root. -/
theorem evalPoly_monic_timesRoot (x root : Byte) (rest : List Byte)
    (h : evalPoly (1#8 :: rest) x = 0#8 ∨ x = root) :
    evalPoly (1#8 :: timesRoot root (1#8 :: rest)) x = 0#8 := by
  have heval := horner_timesRoot x root (List.cons_ne_nil 1#8 rest)
  rw [List.headD_cons] at heval
  rw [evalPoly_cons, heval]
  rcases h with hzero | rfl
  · rw [hzero, zero_gfMul, zero_gfMul, BitVec.xor_self]
  · exact BitVec.xor_self

theorem evalPoly_timesRoot_gfPow {i : Nat} {rest : List Byte}
    (h : ∀ j < i, evalPoly (1#8 :: rest) (gfPow alpha j) = 0#8) :
    ∀ j < i + 1,
      evalPoly (1#8 :: timesRoot (gfPow alpha i) (1#8 :: rest)) (gfPow alpha j) = 0#8 := by
  intro j hj
  refine evalPoly_monic_timesRoot _ _ rest ?_
  rcases Nat.lt_succ_iff_lt_or_eq.1 hj with hlt | rfl
  · exact .inl (h j hlt)
  · exact .inr rfl

/-- The monic polynomial after `i` rounds has the first `i` powers of alpha as zeros; the `k + 1`
rounds that its leading zeros leave to do add the next ones, the last moving the leading 1 out. -/
theorem evalPoly_divisorLoop (k : Nat) {i : Nat} {rest : List Byte}
    (h : ∀ j < i, evalPoly (1#8 :: rest) (gfPow alpha j) = 0#8) :
    ∀ j < i + k + 1, evalPoly (1#8 :: divisorLoop (k + 1) (gfPow alpha i)
      (List.replicate k 0#8 ++ 1#8 :: rest)) (gfPow alpha j) = 0#8 := by
  induction k generalizing i rest with
  | zero => exact evalPoly_timesRoot_gfPow h
  | succ k ih =>
    intro j hj
    rw [divisorLoop, timesRoot_monic]
    exact ih (evalPoly_timesRoot_gfPow h) j (by omega)

theorem evalPoly_rsDivisor {d i : Nat} (h : i < d) :
    evalPoly (1#8 :: rsDivisor d) (gfPow alpha i) = 0#8 := by
  cases d with
  | zero => cases h
  | succ d => exact evalPoly_divisorLoop d (fun j (hj : j < 0) => nomatch hj) i (by omega)

/-- Settles O36: each round of the loop adds one power of alpha to the zeros. -/
theorem divisorVanishesAtThePowersOfAlpha : Obligations.DivisorVanishesAtThePowersOfAlpha :=
  fun d _ => ⟨rsDivisor_length d, fun _ => evalPoly_rsDivisor⟩

/-! ### The remainder (R207, R208) -/

/-- One step of the division keeps the value 0 of data and remainder at a zero of the divisor. -/
theorem horner_remainderStep {x acc : Byte} {g r : List Byte} (b : Byte)
    (hg : evalPoly (1#8 :: g) x = 0#8) (hlen : r.length = g.length) (hne : r ≠ [])
    (h : horner x acc r = 0#8) :
    horner x (gfMul acc x ^^^ b) (remainderStep g r b) = 0#8 := by
  have hacc : gfMul acc x ^^^ b =
      (gfMul acc x ^^^ r.headD 0#8) ^^^ gfMul 1#8 (b ^^^ r.headD 0#8) := by
    rw [one_gfMul, BitVec.xor_comm b, BitVec.xor_assoc, ← BitVec.xor_assoc (r.headD 0#8),
      BitVec.xor_self, BitVec.zero_xor]
  rw [evalPoly_cons] at hg
  rw [remainderStep_eq, hacc, horner_zipWith_xor x (by simp [shiftUp_length hne, hlen]),
    horner_shiftUp x acc hne, horner_map_gfMul, h, hg, zero_gfMul, zero_gfMul, BitVec.xor_self]

@[simp] theorem rsRemainder_nil (g : List Byte) :
    rsRemainder [] g = List.replicate g.length 0#8 := rfl

theorem rsRemainder_concat (bytes g : List Byte) (b : Byte) :
    rsRemainder (bytes ++ [b]) g = remainderStep g (rsRemainder bytes g) b := by
  rw [rsRemainder, List.foldl_concat, rsRemainder]

theorem rsRemainder_ne_nil (bytes : List Byte) {g : List Byte} (h : g ≠ []) :
    rsRemainder bytes g ≠ [] := by
  rwa [Ne, ← List.length_eq_zero_iff, rsRemainder_length, List.length_eq_zero_iff]

/-- R207: data followed by its remainder vanishes at every zero of the divisor. -/
theorem evalPoly_append_rsRemainder {x : Byte} {g : List Byte} (bytes : List Byte)
    (hg : evalPoly (1#8 :: g) x = 0#8) (hne : g ≠ []) :
    evalPoly (bytes ++ rsRemainder bytes g) x = 0#8 := by
  rw [evalPoly_eq_horner, horner_append]
  induction bytes using List.reverseRecOn with
  | nil => exact horner_replicate_zero (zero_gfMul x) g.length
  | append_singleton bytes b ih =>
    rw [rsRemainder_concat, horner_append]
    exact horner_remainderStep b hg (rsRemainder_length bytes g) (rsRemainder_ne_nil bytes hne) ih

theorem evalPoly_codeword {d i : Nat} (bytes : List Byte) (h : i < d) :
    evalPoly (bytes ++ rsRemainder bytes (rsDivisor d)) (gfPow alpha i) = 0#8 :=
  evalPoly_append_rsRemainder bytes (evalPoly_rsDivisor h)
    (by rw [← List.length_pos_iff, rsDivisor_length]; omega)

/-- Settles O38: each step of the division keeps the value 0 at the zeros of the divisor. -/
theorem dataWithRemainderIsACodeword : Obligations.DataWithRemainderIsACodeword :=
  fun d _ bytes => ⟨(rsRemainder_length bytes _).trans (rsDivisor_length d),
    fun _ => evalPoly_codeword bytes⟩

/-- A step on zeros: there is nothing to subtract. -/
theorem remainderStep_zero (g : List Byte) :
    remainderStep g (List.replicate g.length 0#8) 0#8 = List.replicate g.length 0#8 := by
  cases g with
  | nil => rfl
  | cons c g =>
    rw [remainderStep_eq, List.length_cons, List.replicate_succ, shiftUp_cons,
      ← List.replicate_succ', List.headD_cons]
    simp [List.replicate_succ]

theorem rsRemainder_leading_zeros (n : Nat) (bytes g : List Byte) :
    rsRemainder (List.replicate n 0#8 ++ bytes) g = rsRemainder bytes g := by
  induction n with
  | zero => rfl
  | succ n ih =>
    rw [← ih, List.replicate_succ, List.cons_append, rsRemainder, List.foldl_cons,
      remainderStep_zero, rsRemainder]

theorem shiftUp_zipWith_xor {l m : List Byte} (h : l.length = m.length) (hne : l ≠ []) :
    shiftUp (List.zipWith (· ^^^ ·) l m) = List.zipWith (· ^^^ ·) (shiftUp l) (shiftUp m) := by
  obtain ⟨c, l, rfl⟩ := List.exists_cons_of_ne_nil hne
  cases m with
  | nil => cases h
  | cons d m =>
    rw [List.zipWith_cons_cons, shiftUp_cons, shiftUp_cons, shiftUp_cons,
      List.zipWith_append (Nat.succ.inj h)]
    rfl

theorem headD_zipWith_xor {l m : List Byte} (h : l.length = m.length) (hne : l ≠ []) :
    (List.zipWith (· ^^^ ·) l m).headD 0#8 = l.headD 0#8 ^^^ m.headD 0#8 := by
  obtain ⟨c, l, rfl⟩ := List.exists_cons_of_ne_nil hne
  cases m with
  | nil => cases h
  | cons d m => rfl

/-- A sum of multiples regrouped. -/
theorem zipWith_xor_map_xor (l m g : List Byte) (p q : Byte → Byte) :
    List.zipWith (· ^^^ ·) (List.zipWith (· ^^^ ·) l m) (g.map fun c => p c ^^^ q c) =
      List.zipWith (· ^^^ ·) (List.zipWith (· ^^^ ·) l (g.map p))
        (List.zipWith (· ^^^ ·) m (g.map q)) := by
  refine List.ext_getElem (by simp only [List.length_zipWith, List.length_map]; omega)
    fun i _ _ => ?_
  simp only [List.getElem_zipWith, List.getElem_map]
  ac_rfl

/-- R208: a step is linear in the remainder and the data byte. -/
theorem remainderStep_xor (g : List Byte) {r r' : List Byte} (b b' : Byte)
    (h : r.length = r'.length) (hne : r ≠ []) :
    remainderStep g (List.zipWith (· ^^^ ·) r r') (b ^^^ b') =
      List.zipWith (· ^^^ ·) (remainderStep g r b) (remainderStep g r' b') := by
  have hfactor : b ^^^ b' ^^^ (r.headD 0#8 ^^^ r'.headD 0#8) =
      (b ^^^ r.headD 0#8) ^^^ (b' ^^^ r'.headD 0#8) := by ac_rfl
  have hmul (f f' : Byte) : (gfMul · (f ^^^ f')) = fun c => gfMul c f ^^^ gfMul c f' :=
    funext fun c => gfMul_xor c f f'
  rw [remainderStep_eq, remainderStep_eq, remainderStep_eq, shiftUp_zipWith_xor h hne,
    headD_zipWith_xor h hne, hfactor, hmul, zipWith_xor_map_xor]

theorem foldl_remainderStep_xor {a b g : List Byte} (h : a.length = b.length) (hg : g ≠ [])
    {r r' : List Byte} (hr : r.length = g.length) (hr' : r'.length = g.length) :
    (List.zipWith (· ^^^ ·) a b).foldl (remainderStep g) (List.zipWith (· ^^^ ·) r r') =
      List.zipWith (· ^^^ ·) (a.foldl (remainderStep g) r) (b.foldl (remainderStep g) r') := by
  induction a generalizing b r r' with
  | nil =>
    cases b with
    | nil => rfl
    | cons _ _ => cases h
  | cons c a ih =>
    cases b with
    | nil => cases h
    | cons d b =>
      have hne : r ≠ [] := by rwa [← List.length_pos_iff, hr, List.length_pos_iff]
      rw [List.zipWith_cons_cons, List.foldl_cons, remainderStep_xor g c d (hr.trans hr'.symm) hne]
      exact ih (Nat.succ.inj h) (remainderStep_length c hr) (remainderStep_length d hr')

theorem rsRemainder_xor {a b : List Byte} (g : List Byte) (h : a.length = b.length) :
    rsRemainder (List.zipWith (· ^^^ ·) a b) g =
      List.zipWith (· ^^^ ·) (rsRemainder a g) (rsRemainder b g) := by
  cases g with
  | nil =>
    have hempty (l : List Byte) : rsRemainder l [] = [] :=
      List.length_eq_zero_iff.1 (rsRemainder_length l [])
    rw [hempty, hempty, List.zipWith_nil_left]
  | cons c g =>
    have hfold := foldl_remainderStep_xor h (List.cons_ne_nil c g)
      (List.length_replicate (a := 0#8)) (List.length_replicate (a := 0#8))
    rwa [List.zipWith_replicate', BitVec.xor_self] at hfold

/-- A remainder by a divisor of degree 1 or more is zero only for a codeword of the data and zeros,
whose value at 1 is the XOR of the data. -/
theorem eq_zero_of_rsRemainder_zero {d n : Nat} {b : Byte} (hd : 1 ≤ d)
    (h : ∀ c ∈ rsRemainder (List.replicate n 0#8 ++ [b]) (rsDivisor d), c = 0#8) : b = 0#8 := by
  have hzero := List.eq_replicate_of_mem h
  have hcode := evalPoly_codeword (List.replicate n 0#8 ++ [b]) hd
  have hone : gfPow alpha 0 = 1#8 := rfl
  rw [hzero, hone, evalPoly_eq_horner, horner_append, horner_append,
    horner_replicate_zero (zero_gfMul _), horner_cons, horner_nil, zero_gfMul, BitVec.zero_xor,
    horner_replicate_zero (gfMul_one b)] at hcode
  exact hcode

theorem rsRemainder_nonzero_iff {d : Nat} (hd : 1 ≤ d) (n : Nat) (b : Byte) :
    (∃ c ∈ rsRemainder (List.replicate n 0#8 ++ [b]) (rsDivisor d), c ≠ 0#8) ↔ b ≠ 0#8 := by
  constructor
  · rintro ⟨c, hc, hne⟩ rfl
    rw [← List.replicate_succ', ← List.append_nil (List.replicate _ _), rsRemainder_leading_zeros,
      rsRemainder_nil] at hc
    exact hne (List.eq_of_mem_replicate hc)
  · intro hne
    by_contra hall
    push Not at hall
    exact hne (eq_zero_of_rsRemainder_zero hd hall)

/-- Settles O37: the steps are linear, and the codeword of a zero remainder vanishes at 1. -/
theorem remainderPropertiesHold : Obligations.RemainderPropertiesHold :=
  ⟨fun d _ => rsDivisor_length d, fun _ => rfl, fun _ hd _ => rsRemainder_nonzero_iff hd,
    rsRemainder_leading_zeros, fun _ _ g => rsRemainder_xor g⟩

end Sys2Proof.Machine
end

section
/-! PROOFS. The block layout and the interleaving of ECC (spec/42_rs_codec.md R222 to R229), and the
tables of the spec (R220, R221, R230; spec/43_matrix_builder.md R245, R258, R259). -/

namespace Sys2Proof.Machine

open Sys2Proof.Claims

/-! ### The lengths of the blocks (R222, R225) -/

/-- The shortest and the longest block of a version and level. -/
abbrev BlocksFit (e : Level) (v : Nat) : Prop :=
  let raw := rawModules v / 8
  let short := raw / blockCount e v - eccLength e v
  9 ≤ short ∧ short + (if raw % blockCount e v = 0 then 0 else 1) ≤ 123

theorem blocksFit_table : ∀ v < 41, 1 ≤ v → ∀ e ∈ [Level.l, .m, .q, .h], BlocksFit e v := by
  decide +kernel

theorem Configured.blocksFit {s : State} (h : Configured s) : BlocksFit s.ecl s.version.toNat := by
  obtain ⟨h₁, h₂, -⟩ := h
  exact blocksFit_table _ (by omega) h₁ _ (by cases s.ecl <;> decide)

@[simp] theorem blockLengths_length (blocks ecc raw : Nat) :
    (blockLengths blocks ecc raw).length = blocks := by
  simp [blockLengths]

/-- Without a remainder no block is long. -/
theorem blockLengths_bounds {blocks ecc raw n : Nat} (h : n ∈ blockLengths blocks ecc raw) :
    raw / blocks - ecc ≤ n ∧ n ≤ raw / blocks - ecc + if raw % blocks = 0 then 0 else 1 := by
  obtain ⟨b, hb, rfl⟩ := List.mem_map.1 h
  rw [List.mem_range] at hb
  split <;> split <;> omega

theorem Configured.blockLengths_bounds {s : State} (h : Configured s) {n : Nat}
    (hn : n ∈ blockLengths s.blocks.toNat s.eccLen.toNat s.raw.toNat) : 9 ≤ n ∧ n ≤ 123 := by
  obtain ⟨hlow, hhigh⟩ := h.blocksFit
  obtain ⟨-, -, -, -, -, hraw, hblocks, hecc, -⟩ := h
  rw [hraw, hblocks, hecc] at hn
  obtain ⟨hmin, hmax⟩ := Machine.blockLengths_bounds hn
  exact ⟨hlow.trans hmin, hmax.trans hhigh⟩

/-- Settles O39: the sums hold of every layout that fits, the bounds are read off the tables. -/
theorem blocksAndStreamHaveTheirLengths : Obligations.BlocksAndStreamHaveTheirLengths := by
  intro s hconf
  obtain ⟨hpos, hfit, hdata, -, -⟩ := hconf.fits
  exact ⟨blockLengths_length _ _ _, (blockLengths_sum hpos hfit).trans hdata.symm,
    fun _ => hconf.blockLengths_bounds, by omega,
    fun _ hbytes => codewordStream_length hpos hfit (hbytes.trans hdata)⟩

/-! ### The data of the blocks (R225) -/

/-- The blocks without the extra byte. -/
def shortBlocks (s : State) : Nat := s.blocks.toNat - s.raw.toNat % s.blocks.toNat

/-- The columns every block reaches: the length of a short block. -/
def fullColumns (s : State) : Nat := s.raw.toNat / s.blocks.toNat - s.eccLen.toNat

theorem blockStart_eq (s : State) (b : Nat) :
    blockStart s b = b * fullColumns s + (b - shortBlocks s) := rfl

theorem blockData_eq (s : State) (b : Nat) :
    blockData s b = (List.range (fullColumns s + if b < shortBlocks s then 0 else 1)).map
      fun j => entry s.dataCw (blockStart s b + j) := rfl

@[simp] theorem blockData_length (s : State) (b : Nat) :
    (blockData s b).length = fullColumns s + if b < shortBlocks s then 0 else 1 := by
  rw [blockData_eq, List.length_map, List.length_range]

theorem blockStart_succ (s : State) (b : Nat) :
    blockStart s (b + 1) = blockStart s b + (blockData s b).length := by
  rw [blockStart_eq, blockStart_eq, blockData_length, Nat.succ_mul]
  split <;> omega

theorem blockStart_mono (s : State) {b b' : Nat} (h : b ≤ b') :
    blockStart s b ≤ blockStart s b' := by
  rw [blockStart_eq, blockStart_eq]
  have := Nat.mul_le_mul_right (fullColumns s) h
  omega

theorem entry_map_range {n i : Nat} (f : Nat → Byte) (h : i < n) :
    entry ((List.range n).map f) i = f i := by
  simp [entry, h]

theorem entry_blockData {s : State} {b i : Nat}
    (h : i < fullColumns s + if b < shortBlocks s then 0 else 1) :
    entry (blockData s b) i = entry s.dataCw (blockStart s b + i) := by
  rw [blockData_eq, entry_map_range _ h]

theorem sum_take_blockLengths (s : State) {b : Nat} (h : b ≤ s.blocks.toNat) :
    ((blockLengths s.blocks.toNat s.eccLen.toNat s.raw.toNat).take b).sum = blockStart s b := by
  rw [blockLengths, ← List.map_take, List.take_range, Nat.min_eq_left h, sum_range_short]
  rfl

/-- After all blocks every data codeword is taken. -/
theorem Configured.blockStart_blocks {s : State} (h : Configured s) :
    blockStart s s.blocks.toNat = s.data.toNat := by
  obtain ⟨hpos, hfit, hdata, -, -⟩ := h.fits
  rw [hdata, ← blockLengths_sum hpos hfit, ← sum_take_blockLengths s le_rfl,
    List.take_of_length_le (blockLengths_length _ _ _).le]

theorem splitBlocks_getElem? (ns : List Nat) (bytes : List Byte) (b : Nat) :
    (splitBlocks ns bytes)[b]? = ns[b]?.map fun n => (bytes.drop (ns.take b).sum).take n := by
  induction ns generalizing bytes b with
  | nil => rfl
  | cons n ns ih =>
    cases b with
    | zero => rfl
    | succ b => simp [splitBlocks, ih, List.drop_drop]

theorem take_drop_entries {n k m : Nat} (bytes : List Byte) (h : k + m ≤ n) :
    ((entries n bytes).drop k).take m = (List.range m).map fun j => entry bytes (k + j) := by
  refine List.ext_getElem (by simp; omega) fun i _ _ => ?_
  simp [entries]

theorem Configured.splitBlocks_eq {s : State} (h : Configured s) :
    splitBlocks (blockLengths s.blocks.toNat s.eccLen.toNat s.raw.toNat)
      (entries s.data.toNat s.dataCw) = (List.range s.blocks.toNat).map (blockData s) := by
  refine List.ext_getElem? fun b => ?_
  rw [splitBlocks_getElem?]
  by_cases hb : b < s.blocks.toNat
  · have hend : blockStart s b + (blockData s b).length ≤ s.data.toNat := by
      rw [← blockStart_succ, ← h.blockStart_blocks]
      exact blockStart_mono s hb
    rw [blockData_length] at hend
    rw [sum_take_blockLengths s hb.le, blockLengths, List.getElem?_map, List.getElem?_map,
      List.getElem?_range hb]
    exact congrArg some (take_drop_entries s.dataCw hend)
  · rw [List.getElem?_eq_none (by simpa using hb), List.getElem?_eq_none (by simpa using hb)]
    rfl

/-! ### The columns of the grid (R227) -/

/-- A column that every block reaches. -/
theorem column_of_lt {i : Nat} {blocks : List (List Byte)}
    (h : ∀ block ∈ blocks, i < block.length) :
    (blocks.filterMap fun block => block[i]?) = blocks.map fun block => entry block i := by
  rw [← List.filterMap_eq_map']
  refine List.filterMap_congr fun block hblock => ?_
  rw [entry, List.getD_eq_getElem _ _ (h block hblock)]
  exact List.getElem?_eq_getElem _

/-- A column that the first blocks do not reach. -/
theorem column_append {i : Nat} {short long : List (List Byte)}
    (hshort : ∀ block ∈ short, block.length ≤ i) (hlong : ∀ block ∈ long, i < block.length) :
    ((short ++ long).filterMap fun block => block[i]?) = long.map fun block => entry block i := by
  have hnone : (short.filterMap fun block => block[i]?) = [] :=
    List.filterMap_eq_nil_iff.2 fun block hblock => List.getElem?_eq_none (hshort block hblock)
  rw [List.filterMap_append, hnone, column_of_lt hlong, List.nil_append]

theorem interleave_succ (columns : Nat) (blocks : List (List Byte)) :
    interleave (columns + 1) blocks =
      interleave columns blocks ++ blocks.filterMap fun block => block[columns]? := by
  rw [interleave, List.range_succ, List.flatMap_append, List.flatMap_singleton, interleave]

/-- The blocks `f 0` to `f (w - 1)`, each of which reaches the first columns. -/
theorem interleave_succ_full {columns w : Nat} {f : Nat → List Byte}
    (h : ∀ b < w, columns < (f b).length) :
    interleave (columns + 1) ((List.range w).map f) =
      interleave columns ((List.range w).map f) ++
        (List.range w).map fun b => entry (f b) columns := by
  rw [interleave_succ, column_of_lt, List.map_map]
  · rfl
  · intro block hblock
    obtain ⟨b, hb, rfl⟩ := List.mem_map.1 hblock
    exact h b (List.mem_range.1 hb)

theorem interleave_full_length {columns w : Nat} {f : Nat → List Byte}
    (h : ∀ b < w, columns ≤ (f b).length) :
    (interleave columns ((List.range w).map f)).length = columns * w := by
  induction columns with
  | zero => rw [Nat.zero_mul]; rfl
  | succ columns ih =>
    rw [interleave_succ_full h, List.length_append, ih fun b hb => Nat.le_of_succ_le (h b hb),
      List.length_map, List.length_range, Nat.succ_mul]

theorem column_index_lt {columns w i b : Nat} (hi : i < columns) (hb : b < w) :
    i * w + b < columns * w := by
  have := Nat.mul_le_mul_right w (Nat.succ_le_of_lt hi)
  rw [Nat.succ_mul] at this
  omega

theorem entry_append_left {l : List Byte} (m : List Byte) {p : Nat} (h : p < l.length) :
    entry (l ++ m) p = entry l p := List.getD_append l m 0 p h

theorem entry_append_right (l m : List Byte) (p : Nat) :
    entry (l ++ m) (l.length + p) = entry m p := by
  rw [entry, List.getD_append_right _ _ _ _ (Nat.le_add_right _ _), Nat.add_sub_cancel_left, entry]

/-- R227: column `i` holds byte `i` of each block in order. -/
theorem entry_interleave_full {columns w i b : Nat} {f : Nat → List Byte}
    (h : ∀ b < w, columns ≤ (f b).length) (hi : i < columns) (hb : b < w) :
    entry (interleave columns ((List.range w).map f)) (i * w + b) = entry (f b) i := by
  induction columns with
  | zero => cases hi
  | succ columns ih =>
    have h' : ∀ b < w, columns ≤ (f b).length := fun b hb => Nat.le_of_succ_le (h b hb)
    have hlen := interleave_full_length h'
    rw [interleave_succ_full h]
    rcases Nat.lt_succ_iff_lt_or_eq.1 hi with hlt | rfl
    · rw [entry_append_left _ (hlen ▸ column_index_lt hlt hb), ih h' hlt]
    · rw [← hlen, entry_append_right, entry_map_range _ hb]

/-! ### The stream (R226 to R229) -/

/-- The last bytes of the long blocks, the last column of the data. -/
def longColumn (s : State) : List Byte :=
  (List.range (s.blocks.toNat - shortBlocks s)).map fun k =>
    entry (blockData s (shortBlocks s + k)) (fullColumns s)

/-- The remainder of block `b` (R226). -/
def blockEcc (s : State) (b : Nat) : List Byte :=
  rsRemainder (blockData s b) (rsDivisor s.eccLen.toNat)

@[simp] theorem blockEcc_length (s : State) (b : Nat) :
    (blockEcc s b).length = s.eccLen.toNat := by
  rw [blockEcc, rsRemainder_length, rsDivisor_length]

theorem column_blockData (s : State) :
    (((List.range s.blocks.toNat).map (blockData s)).filterMap fun block =>
      block[fullColumns s]?) = longColumn s := by
  have hle : shortBlocks s ≤ s.blocks.toNat := Nat.sub_le _ _
  have hsplit : List.range s.blocks.toNat = List.range (shortBlocks s) ++
      (List.range (s.blocks.toNat - shortBlocks s)).map (shortBlocks s + ·) := by
    rw [← List.range_add, Nat.add_sub_cancel' hle]
  rw [hsplit, List.map_append, column_append, longColumn, List.map_map, List.map_map]
  · rfl
  · intro block hblock
    obtain ⟨b, hb, rfl⟩ := List.mem_map.1 hblock
    rw [blockData_length, if_pos (List.mem_range.1 hb)]
    exact le_rfl
  · intro block hblock
    rw [List.map_map] at hblock
    obtain ⟨k, -, rfl⟩ := List.mem_map.1 hblock
    rw [Function.comp_apply, blockData_length, if_neg (by omega)]
    exact Nat.lt_succ_self _

/-- The stream's three parts: the full columns, the last column, the ECC columns. -/
theorem Configured.codewordStream_eq {s : State} (h : Configured s) :
    codewordStream s.blocks.toNat s.eccLen.toNat s.raw.toNat (entries s.data.toNat s.dataCw) =
      (interleave (fullColumns s) ((List.range s.blocks.toNat).map (blockData s)) ++
        longColumn s) ++
      interleave s.eccLen.toNat ((List.range s.blocks.toNat).map (blockEcc s)) := by
  rw [← column_blockData, ← interleave_succ, codewordStream, h.splitBlocks_eq, List.map_map]
  rfl

theorem fullColumns_le_length (s : State) : ∀ b < s.blocks.toNat,
    fullColumns s ≤ (blockData s b).length := by
  intro b _
  rw [blockData_length]
  exact Nat.le_add_right _ _

theorem fullPart_length (s : State) :
    (interleave (fullColumns s) ((List.range s.blocks.toNat).map (blockData s))).length =
      fullColumns s * s.blocks.toNat :=
  interleave_full_length (fullColumns_le_length s)

theorem longColumn_length (s : State) :
    (longColumn s).length = s.blocks.toNat - shortBlocks s := by
  rw [longColumn, List.length_map, List.length_range]

theorem Configured.dataPart_length {s : State} (h : Configured s) :
    (interleave (fullColumns s) ((List.range s.blocks.toNat).map (blockData s)) ++
      longColumn s).length = s.data.toNat := by
  rw [List.length_append, fullPart_length, longColumn_length, ← h.blockStart_blocks, blockStart_eq,
    Nat.mul_comm]

theorem Configured.raw_eq {s : State} (h : Configured s) :
    s.raw.toNat = s.data.toNat + s.eccLen.toNat * s.blocks.toNat := by
  obtain ⟨-, hfit, hdata, -, -⟩ := h.fits
  rw [Nat.mul_comm] at hfit hdata
  omega

theorem Configured.entry_streamed_data {s : State} (h : Configured s) {p : Nat}
    (hp : p < s.data.toNat) :
    entry (streamedState s).stream p =
      entry (interleave (fullColumns s) ((List.range s.blocks.toNat).map (blockData s)) ++
        longColumn s) p := by
  have hraw := h.raw_eq
  rw [streamedState, entry_overwrite, h.codewordStream_length, if_pos (by omega),
    h.codewordStream_eq, entry_append_left _ (by rwa [h.dataPart_length])]

/-- R227: the full columns. -/
theorem Configured.entry_streamed_full {s : State} (h : Configured s) {b i : Nat}
    (hb : b < s.blocks.toNat) (hi : i < fullColumns s) :
    entry (streamedState s).stream (i * s.blocks.toNat + b) =
      entry s.dataCw (blockStart s b + i) := by
  have hp := column_index_lt hi hb
  have hdata := h.dataPart_length
  rw [List.length_append, fullPart_length] at hdata
  rw [h.entry_streamed_data (by omega), entry_append_left _ (by rwa [fullPart_length]),
    entry_interleave_full (fullColumns_le_length s) hi hb, entry_blockData (by omega)]

/-- R227: the column only the long blocks reach. -/
theorem Configured.entry_streamed_long {s : State} (h : Configured s) {b : Nat}
    (hshort : shortBlocks s ≤ b) (hb : b < s.blocks.toNat) :
    entry (streamedState s).stream (fullColumns s * s.blocks.toNat + (b - shortBlocks s)) =
      entry s.dataCw (blockStart s b + fullColumns s) := by
  have hdata := h.dataPart_length
  rw [List.length_append, fullPart_length, longColumn_length] at hdata
  rw [h.entry_streamed_data (by omega), ← fullPart_length, entry_append_right, longColumn,
    entry_map_range _ (by omega), Nat.add_sub_cancel' hshort, entry_blockData]
  rw [if_neg (Nat.not_lt.2 hshort)]
  exact Nat.lt_succ_self _

/-- R227: the columns of the ECC bytes. -/
theorem Configured.entry_streamed_ecc {s : State} (h : Configured s) {b i : Nat}
    (hb : b < s.blocks.toNat) (hi : i < s.eccLen.toNat) :
    entry (streamedState s).stream (s.data.toNat + i * s.blocks.toNat + b) =
      entry (blockEcc s b) i := by
  have hp := column_index_lt hi hb
  have hraw := h.raw_eq
  rw [Nat.add_assoc, streamedState, entry_overwrite, h.codewordStream_length, if_pos (by omega),
    h.codewordStream_eq, ← h.dataPart_length, entry_append_right,
    entry_interleave_full (fun b _ => (blockEcc_length s b).ge) hi hb]

/-- Settles O40: the stream's three parts, read entry by entry. -/
theorem eccInterleavesTheBlocks : Obligations.EccInterleavesTheBlocks := by
  intro s hphase hconf
  have hexec : exec .ecc s = .next (streamedState s) :=
    (exec_eq_command (i := .ecc) rfl s).trans
      (command_ok (by simp [hphase]) (eccBody_padded hphase))
  exact ⟨streamedState s, hexec, rfl, fun _ hb _ => hconf.entry_streamed_full hb,
    fun _ => hconf.entry_streamed_long, fun _ hb _ => hconf.entry_streamed_ecc hb,
    fun _ => entry_streamed_of_ge hconf _ _⟩

/-! ### The tables -/

/-- Settles O41, one evaluation for each table. -/
theorem placementTablesHold : Obligations.PlacementTablesHold := by
  refine ⟨?_, ?_, ?_, ?_, ?_, ?_, ?_, ?_, ?_⟩ <;> decide +kernel

end Sys2Proof.Machine
end

section
/-! PROOFS. The zig-zag path is the symbol without column 6 (spec/43_matrix_builder.md R253, R257), and
PLACE completes (R255, R256). -/

namespace Sys2Proof.Machine

/-- No column pair holds column 6: the columns left of its right end are even down to 6, which the
path steps over, and the three pairs past it start at 5. -/
theorem rightColumns_ne_six {rounds right r : Nat} (hright : right % 2 = 0 ∨ right ≤ 5)
    (h : r ∈ rightColumns rounds right) : r ≠ 6 ∧ r ≠ 7 := by
  induction rounds generalizing right with
  | zero => cases h
  | succ rounds ih =>
    unfold rightColumns at h
    split at h
    · cases h
    · rcases List.mem_cons.1 h with rfl | h
      · split <;> omega
      · exact ih (by split <;> omega) h

theorem zigzag_ne_six {v : Nat} {p : Nat × Nat} (h : p ∈ zigzag (sideLength v)) : p.1 ≠ 6 := by
  have hside : sideLength v = 4 * v + 17 := rfl
  rw [zigzag_eq] at h
  obtain ⟨right, hright, h⟩ := List.mem_flatMap.1 h
  have hskip := rightColumns_ne_six (.inl (by omega)) hright
  have hx := (mem_columnPair.1 h).2
  omega

/-- Settles O45: the pairs lie apart, cover every column but 6, and leave 6 out. -/
theorem zigzagVisitsEachCellOnce : Obligations.ZigzagVisitsEachCellOnce := by
  intro v _ _
  refine ⟨zigzag_nodup _, fun x y => ⟨fun h => ?_, fun ⟨hx, hy, hne⟩ => mem_zigzag_of_ne hx hy hne⟩⟩
  obtain ⟨hx, hy⟩ := zigzag_bounds h
  exact ⟨hx, hy, zigzag_ne_six h⟩

/-- Settles O42: the free cells take the whole stream, and all that is written lies in the square. -/
theorem placeAlwaysCompletes : Obligations.PlaceAlwaysCompletes :=
  fun s hphase hconf => ⟨placedState s, exec_place hphase hconf, rfl, placed_sameOutside hconf⟩

end Sys2Proof.Machine
end

section
/-! PROOFS. The colours of the function cells after PLACE (spec/43_matrix_builder.md R242 to R252): on
the cells claimed of a pattern what is drawn later agrees with it, and the data takes none of them. -/

namespace Sys2Proof.Machine

/-! ### Lists of draws that agree on a cell -/

/-- Every draw of the list at the cell has this colour. -/
def Coloured (ds : List Draw) (x y : Nat) (dark : Bool) : Prop :=
  ∀ d ∈ ds, d.x = x → d.y = y → d.dark = dark

theorem Coloured.append {ds es : List Draw} {x y : Nat} {dark : Bool} (hd : Coloured ds x y dark)
    (he : Coloured es x y dark) : Coloured (ds ++ es) x y dark :=
  fun d h => (List.mem_append.1 h).elim (hd d) (he d)

theorem coloured_of_not_drawn {ds : List Draw} {x y : Nat} {dark : Bool} (h : ¬Drawn ds x y) :
    Coloured ds x y dark :=
  fun d hd hx hy => absurd ⟨d, hd, hx, hy⟩ h

/-- A cell that is drawn takes the colour its draws agree on. -/
theorem drawAll_mod_of_coloured {ds : List Draw} {x y : Nat} {dark : Bool} (m : Matrix)
    (hx : x < Config.maxSide) (hy : y < Config.maxSide) (hdrawn : Drawn ds x y)
    (hcolour : Coloured ds x y dark) : cell (drawAll ds m).mod x y = dark := by
  induction ds generalizing m with
  | nil => exact absurd hdrawn drawn_nil
  | cons d ds ih =>
    have hrest : Coloured ds x y dark := fun e he => hcolour e (List.mem_cons_of_mem _ he)
    show cell (drawAll ds (setFn m d)).mod x y = dark
    by_cases hlater : Drawn ds x y
    · exact ih _ hlater hrest
    · obtain ⟨rfl, rfl⟩ := (drawn_cons.1 hdrawn).resolve_right hlater
      rw [drawAll_mod_of_undrawn _ _ fun e he => by
        simpa [Draw.at] using fun hex hey => hlater ⟨e, he, hex, hey⟩]
      simp only [setFn, cell_setCell, hx, hy, and_self, if_true]
      exact hcolour d List.mem_cons_self rfl rfl

/-- Data placement changes no function cell (R257). -/
theorem foldl_placeBit_mod_of_function (stream : List Byte) (n : Nat) (path : List (Nat × Nat))
    {acc : Matrix × Nat} {x y : Nat} (hfn : cell acc.1.fn x y = true) :
    cell (path.foldl (placeBit stream n) acc).1.mod x y = cell acc.1.mod x y := by
  induction path generalizing acc with
  | nil => rfl
  | cons p path ih =>
    rw [List.foldl_cons, ih (by rwa [placeBit_fn])]
    by_cases hp : (x, y) = p
    · rw [placeBit_of_function (by simp [← hp, hfn])]
    · exact placeBit_mod_ne (q := (x, y)) stream n acc hp

theorem placeData_mod_of_function (side raw : Nat) (stream : List Byte) {m : Matrix} {x y : Nat}
    (hfn : cell m.fn x y = true) :
    cell (placeData side raw stream m).1.mod x y = cell m.mod x y :=
  foldl_placeBit_mod_of_function (acc := (m, 0)) _ _ _ hfn

theorem placedState_matrix (s : State) : (placedState s).matrix =
    (placeData s.size.toNat s.raw.toNat s.stream (patterned s)).1 := rfl

/-- The last patterns of a cell, if they agree, decide what PLACE leaves there. -/
theorem placedState_of_coloured {s : State} (hconf : Configured s) {early late : List Draw}
    (hsplit : functionDraws (sideLength s.version.toNat) s.version.toNat s.ecl = early ++ late)
    {x y : Nat} {dark : Bool} (hx : x < sideLength s.version.toNat)
    (hy : y < sideLength s.version.toNat) (hdrawn : Drawn late x y)
    (hcolour : Coloured late x y dark) :
    cell (placedState s).matrix.fn x y = true ∧ cell (placedState s).matrix.mod x y = dark := by
  have hmax := hconf.size_le
  obtain ⟨-, -, hsize, -⟩ := hconf
  rw [← hsize] at hsplit hx hy
  have hfn : cell (patterned s).fn x y = true := by
    rw [patterned_fn hmax hx hy, isFunctionCell_eq, any_at_iff, hsplit, drawn_append]
    exact .inr hdrawn
  rw [placedState_matrix, placeData_fn]
  refine ⟨hfn, ?_⟩
  rw [placeData_mod_of_function _ _ _ hfn, patterned, hsplit, drawAll_append]
  exact drawAll_mod_of_coloured _ (hx.trans_le hmax) (hy.trans_le hmax) hdrawn hcolour

/-! ### The colours of the patterns -/

theorem chebyshev_sub_le {x y cx cy r : Nat} :
    chebyshev ((x : Int) - cx) ((y : Int) - cy) ≤ r ↔
      (cx ≤ x + r ∧ x ≤ cx + r) ∧ cy ≤ y + r ∧ y ≤ cy + r := by
  unfold chebyshev
  omega

/-- On the timing lines the colour is the parity of the coordinate along the line, which is that of
the sum, 6 being even (R242). -/
theorem timingDraws_coloured (side x y : Nat) :
    Coloured (timingDraws side) x y ((x + y) % 2 == 0) := by
  intro d hd hx hy
  obtain ⟨i, -, hd⟩ := List.mem_flatMap.1 hd
  rcases List.mem_pair.1 hd with rfl | rfl <;> subst hx hy <;> dsimp only <;> congr 1 <;> omega

/-- The colours of a square pattern are those of its rings (R243, R246). -/
theorem squareDraws_coloured (side r : Nat) (dark : Nat → Bool) (cx cy x y : Nat) :
    Coloured (squareDraws side r dark cx cy) x y
      (dark (chebyshev ((x : Int) - cx) ((y : Int) - cy))) := by
  intro d hd hx hy
  obtain ⟨dy, -, hd⟩ := List.mem_flatMap.1 hd
  obtain ⟨dx, -, hd⟩ := List.mem_filterMap.1 hd
  simp only [Option.ite_none_right_eq_some, Option.some.injEq] at hd
  obtain ⟨hin, rfl⟩ := hd
  subst hx hy
  dsimp only
  congr 2 <;> omega

/-- A cell that one centre's pattern alone covers has the colour of that pattern's ring. -/
theorem squares_coloured {side r x y : Nat} {dark : Nat → Bool} {centres : List (Nat × Nat)}
    {c : Nat × Nat} (hx : x < side) (hy : y < side)
    (halone : ∀ c' ∈ centres, chebyshev ((x : Int) - c'.1) ((y : Int) - c'.2) ≤ r → c' = c) :
    Coloured (centres.flatMap fun c => squareDraws side r dark c.1 c.2) x y
      (dark (chebyshev ((x : Int) - c.1) ((y : Int) - c.2))) := by
  intro d hd hdx hdy
  obtain ⟨c', hc', hd⟩ := List.mem_flatMap.1 hd
  have hcover := chebyshev_sub_le.2 ((drawn_squareDraws hx hy).1 ⟨d, hd, hdx, hdy⟩)
  rw [← halone c' hc' hcover]
  exact squareDraws_coloured _ _ _ _ _ _ _ d hd hdx hdy

theorem drawn_squares {side r x y : Nat} {dark : Nat → Bool} {centres : List (Nat × Nat)}
    {c : Nat × Nat} (hc : c ∈ centres) (hx : x < side) (hy : y < side)
    (hcover : chebyshev ((x : Int) - c.1) ((y : Int) - c.2) ≤ r) :
    Drawn (centres.flatMap fun c => squareDraws side r dark c.1 c.2) x y :=
  drawn_flatMap.2 ⟨c, hc, (drawn_squareDraws hx hy).2 (chebyshev_sub_le.1 hcover)⟩

/-! ### Format bits, version bits and the dark module -/

/-- The number of the format bit in a cell of column 8 or row 8 (R251). -/
def formatBitAt (side x y : Nat) : Nat :=
  if y = 8 then if x ≤ 5 then 14 - x else if x ≤ 8 then 15 - x else side - 1 - x
  else if y ≤ 5 then y else if y ≤ 8 then y - 1 else y + 15 - side

/-- The colour of a format cell: its bit, but dark at the dark module (R251, R252). -/
def formatColour (side bits x y : Nat) : Bool :=
  if x = 8 ∧ y + 8 = side then true else bits.testBit (formatBitAt side x y)

theorem formatColour_of_bit {side x y i : Nat} (bits : Nat) (hdark : ¬(x = 8 ∧ y + 8 = side))
    (hi : formatBitAt side x y = i) : bits.testBit i = formatColour side bits x y := by
  rw [formatColour, if_neg hdark, hi]

/-- Every format draw has the colour of its cell. -/
theorem formatDraws_dark {side : Nat} (hside : 21 ≤ side) (ecl : Level) (k : Nat) :
    ∀ d ∈ formatDraws side ecl k, d.dark = formatColour side (formatBits ecl k) d.x d.y := by
  simp only [formatDraws, darkModuleDraw, List.forall_mem_append, List.forall_mem_map,
    List.forall_mem_cons, List.not_mem_nil, false_imp_iff, implies_true, and_true]
  refine ⟨?bits, ?darkModule⟩
  case darkModule => rw [formatColour, if_pos ⟨rfl, by omega⟩]
  case bits =>
    and_intros <;>
      exact formatColour_of_bit _ (by omega) (by unfold formatBitAt; split_ifs <;> omega)

/-- A format cell has one colour. -/
theorem formatDraws_coloured {side k : Nat} {ecl : Level} (hside : 21 ≤ side) {d : Draw}
    (hd : d ∈ formatDraws side ecl k) : Coloured (formatDraws side ecl k) d.x d.y d.dark := by
  intro e he hx hy
  rw [formatDraws_dark hside ecl k e he, formatDraws_dark hside ecl k d hd, hx, hy]

/-- The number of the version bit in a cell, the same in both blocks: three to a line (R249). -/
def versionBitAt (side x y : Nat) : Nat := 3 * min x y + (max x y - (side - 11))

theorem versionDraws_dark {side : Nat} (hside : 21 ≤ side) (v : Nat) :
    ∀ d ∈ versionDraws side v, d.dark = (versionBits v).testBit (versionBitAt side d.x d.y) := by
  intro d hd
  unfold versionDraws at hd
  split at hd
  · cases hd
  · obtain ⟨i, hi, hd⟩ := List.mem_flatMap.1 hd
    rw [List.mem_range] at hi
    rcases List.mem_pair.1 hd with rfl | rfl <;> dsimp only [versionBitAt] <;> congr 1 <;> omega

/-- A version cell has one colour. -/
theorem versionDraws_coloured {side v : Nat} (hside : 21 ≤ side) {d : Draw}
    (hd : d ∈ versionDraws side v) : Coloured (versionDraws side v) d.x d.y d.dark := by
  intro e he hx hy
  rw [versionDraws_dark hside v e he, versionDraws_dark hside v d hd, hx, hy]

/-- The patterns drawn after the alignment patterns: format bits, version blocks, dark module. -/
def informationDraws (side v : Nat) (ecl : Level) : List Draw :=
  formatDraws side ecl 0 ++ versionDraws side v ++ [darkModuleDraw side]

theorem functionDraws_eq (side v : Nat) (ecl : Level) :
    functionDraws side v ecl =
      timingDraws side ++ finderDraws side ++ alignmentDraws side v ++ informationDraws side v ecl
    := by
  simp only [functionDraws, informationDraws, List.append_assoc]

theorem darkModuleDraw_mem_formatDraws (side : Nat) (ecl : Level) (k : Nat) :
    darkModuleDraw side ∈ formatDraws side ecl k :=
  List.mem_append_right _ List.mem_cons_self

/-- The dark module is drawn with the format bits already (R251, R252). -/
theorem mem_informationDraws {side v : Nat} {ecl : Level} {d : Draw} :
    d ∈ informationDraws side v ecl ↔ d ∈ formatDraws side ecl 0 ++ versionDraws side v := by
  rw [informationDraws, List.mem_append, List.mem_singleton, or_iff_left_of_imp]
  rintro rfl
  exact List.mem_append_left _ (darkModuleDraw_mem_formatDraws _ _ _)

theorem drawn_informationDraws {side v x y : Nat} {ecl : Level} (hside : 21 ≤ side) (hx : x < side)
    (hy : y < side) : Drawn (informationDraws side v ecl) x y ↔
      ((x = 8 ∧ y ≤ 8 ∧ y ≠ 6) ∨ (y = 8 ∧ x ≤ 8 ∧ x ≠ 6) ∨ (y = 8 ∧ side ≤ x + 8) ∨
        (x = 8 ∧ side ≤ y + 8)) ∨
      (7 ≤ v ∧ ((side ≤ x + 11 ∧ x + 8 < side ∧ y < 6) ∨
        (x < 6 ∧ side ≤ y + 11 ∧ y + 8 < side))) := by
  rw [← drawn_formatDraws (ecl := ecl) (k := 0) hside hx hy, ← drawn_versionDraws hside hx hy,
    ← drawn_append]
  simp only [Drawn, mem_informationDraws]

/-- Where format or version bits are drawn, nothing drawn later changes them. -/
theorem informationDraws_coloured {v : Nat} {ecl : Level} {d : Draw} (h₁ : 1 ≤ v)
    (hd : d ∈ formatDraws (sideLength v) ecl 0 ++ versionDraws (sideLength v) v) :
    Coloured (informationDraws (sideLength v) v ecl) d.x d.y d.dark := by
  have hside : 21 ≤ sideLength v := by unfold sideLength; omega
  have hbits : Coloured (formatDraws (sideLength v) ecl 0 ++ versionDraws (sideLength v) v)
      d.x d.y d.dark := by
    obtain ⟨hx, hy⟩ :=
      ((formatDraws_inSymbol hside ecl 0).append (versionDraws_inSymbol hside v)) d hd
    have hapart : ¬(Drawn (formatDraws (sideLength v) ecl 0) d.x d.y ∧
        Drawn (versionDraws (sideLength v) v) d.x d.y) := by
      rw [drawn_formatDraws hside hx hy, drawn_versionDraws hside hx hy]
      omega
    rcases List.mem_append.1 hd with hd | hd
    · exact (formatDraws_coloured hside hd).append
        (coloured_of_not_drawn fun h => hapart ⟨⟨d, hd, rfl, rfl⟩, h⟩)
    · exact (coloured_of_not_drawn fun h => hapart ⟨h, d, hd, rfl, rfl⟩).append
        (versionDraws_coloured hside hd)
  exact fun e he => hbits e (mem_informationDraws.1 he)

/-! ### The alignment patterns -/

/-- The alignment positions of every version are even and lie apart; past the first they are clear of
the top and left finders (R244). -/
theorem alignPositions_table : ∀ v < 41, 1 ≤ v →
    (alignPositions v).Pairwise (fun a b => a + 5 ≤ b) ∧
    ∀ a ∈ alignPositions v, a % 2 = 0 ∧ (a = 6 ∨ 16 ≤ a) := by decide +kernel

theorem mem_alignPositions_of_mem_alignCentres {v : Nat} {c : Nat × Nat} (h : c ∈ alignCentres v) :
    c.1 ∈ alignPositions v ∧ c.2 ∈ alignPositions v := by
  obtain ⟨i, hi, h⟩ := List.mem_flatMap.1 h
  obtain ⟨j, hj, h⟩ := List.mem_filterMap.1 h
  rw [List.mem_range] at hi hj
  simp only [Option.ite_none_left_eq_some, Option.some.injEq] at h
  obtain ⟨-, rfl⟩ := h
  simp only [List.getD_eq_getElem _ _ hi, List.getD_eq_getElem _ _ hj]
  exact ⟨List.getElem_mem _, List.getElem_mem _⟩

section
variable {v : Nat} (h₁ : 1 ≤ v) (h₂ : v ≤ 40)
include h₁ h₂

/-- Two positions that reach the same coordinate are one. -/
theorem alignPositions_eq {a b x : Nat} (ha : a ∈ alignPositions v) (hb : b ∈ alignPositions v)
    (hxa : a ≤ x + 2 ∧ x ≤ a + 2) (hxb : b ≤ x + 2 ∧ x ≤ b + 2) : a = b := by
  obtain ⟨hapart, -⟩ := alignPositions_table v (by omega) h₁
  have hgap : a = b ∨ a + 5 ≤ b ∨ b + 5 ≤ a :=
    List.Pairwise.forall_of_forall_of_flip (R := fun a b => a = b ∨ a + 5 ≤ b ∨ b + 5 ≤ a)
      (fun _ _ => .inl rfl) (hapart.imp fun h => .inr (.inl h)) (hapart.imp fun h => .inr (.inr h))
      ha hb
  omega

/-- No cell lies in two alignment patterns (R246). -/
theorem alignCentres_eq {c c' : Nat × Nat} {x y : Nat} (hc : c ∈ alignCentres v)
    (hc' : c' ∈ alignCentres v) (hcover : chebyshev ((x : Int) - c.1) ((y : Int) - c.2) ≤ 2)
    (hcover' : chebyshev ((x : Int) - c'.1) ((y : Int) - c'.2) ≤ 2) : c' = c := by
  obtain ⟨hpx, hpy⟩ := mem_alignPositions_of_mem_alignCentres hc
  obtain ⟨hpx', hpy'⟩ := mem_alignPositions_of_mem_alignCentres hc'
  obtain ⟨hx, hy⟩ := chebyshev_sub_le.1 hcover
  obtain ⟨hx', hy'⟩ := chebyshev_sub_le.1 hcover'
  exact Prod.ext (alignPositions_eq h₁ h₂ hpx' hpx hx' hx) (alignPositions_eq h₁ h₂ hpy' hpy hy' hy)

/-- An alignment pattern over a timing line agrees with it: its centre is on the line, and the
positions are even (R246). -/
theorem alignmentDraws_coloured_of_timing {x y : Nat} (hx : x < sideLength v) (hy : y < sideLength v)
    (hline : x = 6 ∨ y = 6) :
    Coloured (alignmentDraws (sideLength v) v) x y ((x + y) % 2 == 0) := by
  intro d hd hdx hdy
  obtain ⟨c, hc, hd⟩ := List.mem_flatMap.1 hd
  obtain ⟨hcx, hcy⟩ := (drawn_squareDraws hx hy).1 ⟨d, hd, hdx, hdy⟩
  obtain ⟨-, hpositions⟩ := alignPositions_table v (by omega) h₁
  obtain ⟨hpx, hpy⟩ := mem_alignPositions_of_mem_alignCentres hc
  have hpx := hpositions _ hpx
  have hpy := hpositions _ hpy
  rw [squareDraws_coloured _ _ _ _ _ _ _ d hd hdx hdy, Bool.eq_iff_iff, bne_iff_ne, beq_iff_eq]
  rcases hline with rfl | rfl
  · have hcentre : c.1 = 6 := by omega
    have hring : chebyshev (((6 : Nat) : Int) - c.1) ((y : Int) - c.2) =
        ((y : Int) - c.2).natAbs := by simp [chebyshev, hcentre]
    omega
  · have hcentre : c.2 = 6 := by omega
    have hring : chebyshev ((x : Int) - c.1) (((6 : Nat) : Int) - c.2) =
        ((x : Int) - c.1).natAbs := by simp [chebyshev, hcentre]
    omega

/-- The alignment patterns lie between the finders, those on the timing lines between the version
blocks too. -/
theorem alignmentDraws_bounds {x y : Nat} (hx : x < sideLength v) (hy : y < sideLength v)
    (h : Drawn (alignmentDraws (sideLength v) v) x y) :
    ((14 ≤ x ∧ x + 5 ≤ sideLength v) ∧ 14 ≤ y ∧ y + 5 ≤ sideLength v) ∨
      ((14 ≤ x ∧ x + 12 ≤ sideLength v) ∧ 4 ≤ y ∧ y ≤ 8) ∨
      ((4 ≤ x ∧ x ≤ 8) ∧ 14 ≤ y ∧ y + 12 ≤ sideLength v) := by
  rcases (drawn_alignmentDraws h₁ h₂ hx hy).1 h with ⟨hx, hy⟩ | ⟨hx, hy⟩ | ⟨hx, hy⟩
  · exact .inl ⟨laterBands_bounds h₁ h₂ hx, laterBands_bounds h₁ h₂ hy⟩
  · exact .inr (.inl ⟨innerBands_bounds h₁ h₂ hx, hy⟩)
  · exact .inr (.inr ⟨hx, innerBands_bounds h₁ h₂ hy⟩)

/-! ### Each pattern against those drawn after it -/

/-- Between the finders the timing lines keep their colours. -/
theorem functionDraws_coloured_of_timing {x y : Nat} (ecl : Level)
    (hline : (x = 6 ∧ 8 ≤ y ∧ y + 8 < sideLength v) ∨ (y = 6 ∧ 8 ≤ x ∧ x + 8 < sideLength v)) :
    Coloured (functionDraws (sideLength v) v ecl) x y ((x + y) % 2 == 0) := by
  have hside : sideLength v = 4 * v + 17 := rfl
  have hx : x < sideLength v := by omega
  have hy : y < sideLength v := by omega
  rw [functionDraws_eq]
  refine (((timingDraws_coloured _ x y).append (coloured_of_not_drawn ?_)).append
    (alignmentDraws_coloured_of_timing h₁ h₂ hx hy (by omega))).append (coloured_of_not_drawn ?_)
  · rw [drawn_finderDraws (by omega) hx hy]
    omega
  · rw [drawn_informationDraws (by omega) hx hy]
    omega

/-- The finders and what is drawn after them lie apart, and so do the finders themselves. -/
theorem finderDraws_coloured {c : Nat × Nat} {x y : Nat} (ecl : Level)
    (hc : c ∈ [(3, 3), (sideLength v - 4, 3), (3, sideLength v - 4)]) (hx : x < sideLength v)
    (hy : y < sideLength v) (hcover : chebyshev ((x : Int) - c.1) ((y : Int) - c.2) ≤ 4) :
    Coloured (finderDraws (sideLength v) ++ (alignmentDraws (sideLength v) v ++
        informationDraws (sideLength v) v ecl)) x y
      (chebyshev ((x : Int) - c.1) ((y : Int) - c.2) != 2 &&
        chebyshev ((x : Int) - c.1) ((y : Int) - c.2) != 4) := by
  have hside : sideLength v = 4 * v + 17 := rfl
  have hcorner := (drawn_finderDraws (by omega) hx hy).1 (drawn_squares hc hx hy hcover)
  refine .append (squares_coloured (dark := fun d => d != 2 && d != 4) hx hy
    fun c' hc' hcover' => ?_) (.append (coloured_of_not_drawn ?_) (coloured_of_not_drawn ?_))
  · rw [chebyshev_sub_le] at hcover hcover'
    simp only [List.mem_cons, List.not_mem_nil, or_false, Prod.ext_iff] at hc hc'
    exact Prod.ext (by omega) (by omega)
  · intro h
    have := alignmentDraws_bounds h₁ h₂ hx hy h
    omega
  · rw [drawn_informationDraws (by omega) hx hy]
    omega

/-- The alignment patterns and what is drawn after them lie apart, and so do the patterns. -/
theorem alignmentDraws_coloured {c : Nat × Nat} {x y : Nat} (ecl : Level) (hc : c ∈ alignCentres v)
    (hx : x < sideLength v) (hy : y < sideLength v)
    (hcover : chebyshev ((x : Int) - c.1) ((y : Int) - c.2) ≤ 2) :
    Coloured (alignmentDraws (sideLength v) v ++ informationDraws (sideLength v) v ecl) x y
      (chebyshev ((x : Int) - c.1) ((y : Int) - c.2) != 1) := by
  have hside : sideLength v = 4 * v + 17 := rfl
  have hbounds := alignmentDraws_bounds h₁ h₂ hx hy (drawn_squares hc hx hy hcover)
  refine .append (squares_coloured (dark := fun d => d != 1) hx hy fun c' hc' hcover' =>
    alignCentres_eq h₁ h₂ hc hc' hcover hcover') (coloured_of_not_drawn ?_)
  rw [drawn_informationDraws (by omega) hx hy]
  omega

end

/-! ### The patterns after PLACE -/

section
variable {s : State} (hconf : Configured s)
include hconf

theorem placedState_timing {x y : Nat}
    (hline : (x = 6 ∧ 8 ≤ y ∧ y + 8 < sideLength s.version.toNat) ∨
      (y = 6 ∧ 8 ≤ x ∧ x + 8 < sideLength s.version.toNat)) :
    cell (placedState s).matrix.fn x y = true ∧
      cell (placedState s).matrix.mod x y = ((x + y) % 2 == 0) := by
  have ⟨h₁, h₂, _⟩ := hconf
  have hside : sideLength s.version.toNat = 4 * s.version.toNat + 17 := rfl
  have hx : x < sideLength s.version.toNat := by omega
  have hy : y < sideLength s.version.toNat := by omega
  refine placedState_of_coloured hconf (List.nil_append _).symm hx hy ?_
    (functionDraws_coloured_of_timing h₁ h₂ s.ecl hline)
  simp only [functionDraws_eq, drawn_append, drawn_timingDraws hx hy]
  omega

theorem placedState_finder {c : Nat × Nat} {x y : Nat}
    (hc : c ∈ [(3, 3), (sideLength s.version.toNat - 4, 3), (3, sideLength s.version.toNat - 4)])
    (hx : x < sideLength s.version.toNat) (hy : y < sideLength s.version.toNat)
    (hcover : chebyshev ((x : Int) - c.1) ((y : Int) - c.2) ≤ 4) :
    cell (placedState s).matrix.fn x y = true ∧ cell (placedState s).matrix.mod x y =
      decide (chebyshev ((x : Int) - c.1) ((y : Int) - c.2) ≠ 2 ∧
        chebyshev ((x : Int) - c.1) ((y : Int) - c.2) ≠ 4) := by
  have ⟨h₁, h₂, _⟩ := hconf
  have hcolour := finderDraws_coloured h₁ h₂ s.ecl hc hx hy hcover
  have hdrawn : Drawn (finderDraws (sideLength s.version.toNat)) x y := drawn_squares hc hx hy hcover
  simp only [ne_eq, Bool.decide_and, decide_not]
  exact placedState_of_coloured hconf (by rw [functionDraws_eq, List.append_assoc, List.append_assoc])
    hx hy (drawn_append.2 (.inl hdrawn)) hcolour

theorem placedState_alignment {c : Nat × Nat} {x y : Nat} (hc : c ∈ alignCentres s.version.toNat)
    (hx : x < sideLength s.version.toNat) (hy : y < sideLength s.version.toNat)
    (hcover : chebyshev ((x : Int) - c.1) ((y : Int) - c.2) ≤ 2) :
    cell (placedState s).matrix.fn x y = true ∧ cell (placedState s).matrix.mod x y =
      decide (chebyshev ((x : Int) - c.1) ((y : Int) - c.2) ≠ 1) := by
  have ⟨h₁, h₂, _⟩ := hconf
  have hcolour := alignmentDraws_coloured h₁ h₂ s.ecl hc hx hy hcover
  have hdrawn : Drawn (alignmentDraws (sideLength s.version.toNat) s.version.toNat) x y :=
    drawn_squares hc hx hy hcover
  simp only [ne_eq, decide_not]
  exact placedState_of_coloured hconf (by rw [functionDraws_eq, List.append_assoc]) hx hy
    (drawn_append.2 (.inl hdrawn)) hcolour

theorem placedState_information {d : Draw}
    (hd : d ∈ formatDraws (sideLength s.version.toNat) s.ecl 0 ++
      versionDraws (sideLength s.version.toNat) s.version.toNat) :
    cell (placedState s).matrix.fn d.x d.y = true ∧
      cell (placedState s).matrix.mod d.x d.y = d.dark := by
  have ⟨h₁, _, hsize, _⟩ := hconf
  have hside := hsize ▸ hconf.side_ge
  obtain ⟨hx, hy⟩ :=
    ((formatDraws_inSymbol hside s.ecl 0).append (versionDraws_inSymbol hside _)) d hd
  exact placedState_of_coloured hconf (functionDraws_eq _ _ _) hx hy
    ⟨d, mem_informationDraws.2 hd, rfl, rfl⟩ (informationDraws_coloured h₁ hd)

end

/-- Settles O43: each pattern agrees with those drawn after it on its cells, or lies apart from them,
and the data takes free cells alone. -/
theorem placeDrawsEveryFunctionPattern : Obligations.PlaceDrawsEveryFunctionPattern := by
  intro s t hphase hconf h
  obtain rfl : placedState s = t := Host.Outcome.next.inj ((exec_place hphase hconf).symm.trans h)
  have ⟨_, _, hsize, _⟩ := hconf
  dsimp only
  rw [hsize]
  have hdark := placedState_information hconf
    (List.mem_append_left _ (darkModuleDraw_mem_formatDraws _ s.ecl 0))
  refine ⟨fun i hlow hhigh => ?_, fun c hc x hx y hy => placedState_finder hconf hc hx hy,
    fun c hc x hx y hy => placedState_alignment hconf hc hx hy,
    fun d hd => placedState_information hconf hd, hdark⟩
  have hcolumn := placedState_timing hconf (.inl ⟨rfl, hlow, hhigh⟩)
  have hrow := placedState_timing hconf (.inr ⟨rfl, hlow, hhigh⟩)
  rw [show (6 + i) % 2 = i % 2 by omega] at hcolumn
  rw [show (i + 6) % 2 = i % 2 by omega] at hrow
  exact ⟨hcolumn.2, hcolumn.1, hrow.2, hrow.1⟩

end Sys2Proof.Machine
end

section
/-! PROOFS. MASK (spec/44_masker.md R280 to R297): a mask twice, the balance band, the bound of the
penalty, the mask chosen, and the symbol MASK leaves. -/

namespace Sys2Proof.Machine

open Sys2Proof.Claims

/-- Settles O46: a cell is inverted twice or not at all. -/
theorem maskAppliedTwiceIsTheIdentity : Obligations.MaskAppliedTwiceIsTheIdentity :=
  applyMask_applyMask

/-- Settles O49: the number of cells is odd, so the dark share is never exactly half. -/
theorem balanceBandIsZeroToNine : Obligations.BalanceBandIsZeroToNine := by
  intro v d hd
  obtain ⟨hlow, hhigh⟩ := balanceCeiling_bounds (sideLength_odd v) hd
  exact ⟨hlow, by omega⟩

/-- Settles O50: the balance band holds and the four terms' bounds add up to less than `PEN_BOUND`. -/
theorem penaltyNeverExceedsItsBound : Obligations.PenaltyNeverExceedsItsBound :=
  fun _ g _ hv => ⟨_, penalty_eq hv g, penaltySum_le hv g⟩

/-! ### The mask chosen -/

theorem exec_mask {s t : State} (hs : s.phase ≠ .error) (h : maskBody s = .ok t) :
    exec .mask s = .next t :=
  (exec_eq_command (i := .mask) rfl s).trans (command_ok hs h)

/-- Once a mask is chosen MASK completes (R296). -/
theorem maskBody_of_chooseMask {s : State} {r : State × Nat} (hphase : s.phase = .placed)
    (h : chooseMask s = .ok r) : ∃ t, maskBody s = .ok t := by
  rw [maskBody, if_neg (not_not.2 hphase), h]
  exact ⟨_, rfl⟩

/-- Settles O52: the fixed mask is chosen without a look at the matrix. -/
theorem fixedMaskScoresNothing : Obligations.FixedMaskScoresNothing := by
  intro s hphase hfixed
  have hchoice : chooseMask s = .ok (s, s.maskId.toNat) := by simp [chooseMask, hfixed]
  obtain ⟨t, ht⟩ := maskBody_of_chooseMask hphase hchoice
  refine ⟨t, exec_mask (by simp [hphase]) ht, ?_⟩
  obtain ⟨-, pen, m, k, dark, -, hkept, rfl⟩ := maskBody_ok ht
  obtain ⟨rfl, rfl⟩ := hkept hfixed
  exact ⟨rfl, by simp, rfl, by simp [hfixed]⟩

/-- The bound is checked before a penalty is answered (R293). -/
theorem penalty_le {side p : Nat} {g : Grid} (h : penalty side g = .ok p) : p ≤ penaltyBound := by
  unfold penalty at h
  dsimp only at h
  split_ifs at h with hband hbound
  cases h
  omega

theorem penaltyOf_set {pen : Vector Word 8} {k p : Nat} (hk : k < 8) (hp : p ≤ penaltyBound) :
    penaltyOf (pen.setIfInBounds k (BitVec.ofNat 32 p)) k = p := by
  have hp : p < 2 ^ 32 := hp.trans_lt (by decide)
  simpa [penaltyOf, hk] using hp

theorem penaltyOf_set_ne {pen : Vector Word 8} {j k : Nat} (w : Word) (h : k ≠ j) :
    penaltyOf (pen.setIfInBounds k w) j = penaltyOf pen j := by
  rw [penaltyOf, Vector.getElem?_setIfInBounds_ne h, penaltyOf]

/-- A round records the penalty of the matrix under its mask (R294). -/
theorem scoreMask_pen {k : Nat} {s t : State} (hk : k < 8) (h : scoreMask s k = .ok t) :
    penalty s.size.toNat (applyMask k s.size.toNat s.matrix).mod = .ok (penaltyOf t.pen k) ∧
      ∀ j, k ≠ j → penaltyOf t.pen j = penaltyOf s.pen j := by
  unfold scoreMask at h
  cases hp : penalty s.size.toNat (applyMask k s.size.toNat s.matrix).mod with
  | error c =>
    simp only [hp] at h
    cases h
  | ok p =>
    simp only [hp] at h
    cases h
    exact ⟨congrArg _ (penaltyOf_set hk (penalty_le hp)).symm, fun j hne => penaltyOf_set_ne _ hne⟩

/-- The rounds record the penalty of each listed mask on the same matrix and leave the others'. -/
theorem scoreMasks_pen {ks : List Nat} {s t : State} (hks : ∀ k ∈ ks, k < 8)
    (h : scoreMasks ks s = .ok t) (j : Nat) :
    (j ∈ ks → penalty s.size.toNat (applyMask j s.size.toNat s.matrix).mod =
      .ok (penaltyOf t.pen j)) ∧ (j ∉ ks → penaltyOf t.pen j = penaltyOf s.pen j) := by
  induction ks generalizing s with
  | nil =>
    cases h
    exact ⟨nofun, fun _ => rfl⟩
  | cons k ks ih =>
    unfold scoreMasks at h
    cases hk : scoreMask s k with
    | error c =>
      rw [hk] at h
      cases h
    | ok u =>
      rw [hk] at h
      obtain ⟨hhere, hothers⟩ := scoreMask_pen (hks k List.mem_cons_self) hk
      obtain ⟨hin, hout⟩ := ih (fun i hi => hks i (List.mem_cons_of_mem _ hi)) h
      have hmatrix := scoreMask_matrix hk
      have hsize : u.size = s.size := by
        obtain ⟨_, _, -, rfl⟩ := scoreMask_ok hk
        rfl
      rw [hmatrix, hsize] at hin
      by_cases hj : j ∈ ks
      · exact ⟨fun _ => hin hj, fun hnot => absurd (List.mem_cons_of_mem _ hj) hnot⟩
      · rw [hout hj]
        refine ⟨fun hmem => ?_, fun hnot => hothers j fun he => hnot (he ▸ List.mem_cons_self)⟩
        obtain rfl := (List.mem_cons.1 hmem).resolve_right hj
        exact hhere

/-- The mask chosen has the least penalty, and every smaller id a greater one (R294). -/
theorem bestMask_least (pen : Vector Word 8) :
    (∀ j < 8, penaltyOf pen (bestMask pen) ≤ penaltyOf pen j) ∧
      ∀ j < bestMask pen, penaltyOf pen (bestMask pen) < penaltyOf pen j := by
  have hleast : ∃ k < 8, ∀ j < 8, penaltyOf pen k ≤ penaltyOf pen j := by
    obtain ⟨k, hk, hmin⟩ := Finset.exists_min_image (Finset.range 8) (penaltyOf pen) ⟨0, by decide⟩
    exact ⟨k, Finset.mem_range.1 hk, fun j hj => hmin j (Finset.mem_range.2 hj)⟩
  unfold bestMask
  cases hfind : (List.range 8).find? fun k =>
      (List.range 8).all fun j => penaltyOf pen k ≤ penaltyOf pen j with
  | none =>
    obtain ⟨k, hk, hmin⟩ := hleast
    have := List.find?_eq_none.1 hfind k (List.mem_range.2 hk)
    exact absurd (by simpa using hmin) this
  | some k =>
    obtain ⟨hall, hk, hbefore⟩ := List.find?_range_eq_some.1 hfind
    have hmin : ∀ j < 8, penaltyOf pen k ≤ penaltyOf pen j := by simpa using hall
    rw [List.mem_range] at hk
    refine ⟨hmin, fun j hj => ?_⟩
    obtain ⟨i, hi, hlt⟩ : ∃ i < 8, penaltyOf pen i < penaltyOf pen j := by
      simpa using hbefore j hj
    exact (hmin i hi).trans_lt hlt

/-- What automatic selection records and chooses (R294). -/
theorem maskBody_auto {s t : State} (hauto : s.maskAuto = true) (h : maskBody s = .ok t) :
    t.penValid = 0xFF#8 ∧ t.chosen.toNat = bestMask t.pen ∧
      ∀ k < 8, penalty s.size.toNat (applyMask k s.size.toNat s.matrix).mod =
        .ok (penaltyOf t.pen k) := by
  obtain ⟨-, hx⟩ := guard_ok h
  unfold chooseMask at hx
  rw [if_pos hauto] at hx
  cases hk : scoreMasks (List.range 8) s with
  | error c =>
    rw [hk] at hx
    cases hx
  | ok u =>
    rw [hk] at hx
    cases hx
    have hbest : bestMask u.pen % 2 ^ 3 = bestMask u.pen := Nat.mod_eq_of_lt (bestMask_lt _)
    exact ⟨rfl, by rw [BitVec.toNat_ofNat, hbest], fun k hlt =>
      (scoreMasks_pen (fun _ => List.mem_range.1) hk k).1 (List.mem_range.2 hlt)⟩

/-- Settles O51: each round scores the placed matrix, which the undo restores, and the search over
the ids in order finds the first least penalty. -/
theorem autoSelectionTakesTheLowestPenalty : Obligations.AutoSelectionTakesTheLowestPenalty := by
  intro s t _ hauto h hdone
  have hbody := body_of_exec (i := .mask) rfl h (by simp [hdone])
  obtain ⟨hvalid, hchosen, hpen⟩ := maskBody_auto hauto hbody
  obtain ⟨hmin, hfirst⟩ := bestMask_least t.pen
  rw [← hchosen] at hmin hfirst
  exact ⟨hvalid, hpen, hmin, hfirst, maskBody_matrix hbody⟩

/-! ### The symbol MASK leaves -/

/-- `S_DARK` counts the dark cells of the final matrix (R296). -/
theorem maskBody_dark {s t : State} (h : maskBody s = .ok t) :
    t.dark = BitVec.ofNat 15 (darkCount s.size.toNat t.matrix.mod) := by
  obtain ⟨-, hx⟩ := guard_ok h
  cases hc : chooseMask s with
  | error c =>
    rw [hc] at hx
    cases hx
  | ok r =>
    rw [hc] at hx
    obtain ⟨_, _, -, hu, -⟩ := chooseMask_ok (best := r.2) hc
    cases hx
    simp only [hu]

/-- The dark count of a symbol fits its register (R50). -/
theorem Configured.darkCount_lt {s : State} (hconf : Configured s) (g : Grid) :
    darkCount s.size.toNat g < 2 ^ 15 := by
  have hsize : s.size.toNat ≤ 177 := hconf.size_le
  have hcells : s.size.toNat * s.size.toNat ≤ 177 * 177 := Nat.mul_le_mul hsize hsize
  exact (darkCount_le _ g).trans_lt (by omega)

/-- Format and version cells lie apart, and a cell has one colour in each. -/
theorem finalDraws_coloured {side v k : Nat} {ecl : Level} (hside : 21 ≤ side)
    (hv : side = sideLength v) {d : Draw} (hd : d ∈ formatDraws side ecl k ++ versionDraws side v) :
    Coloured (formatDraws side ecl k ++ versionDraws side v) d.x d.y d.dark := by
  obtain ⟨hx, hy⟩ := (formatDraws_inSymbol hside ecl k).append (versionDraws_inSymbol hside v) d hd
  have hapart : ¬(Drawn (formatDraws side ecl k) d.x d.y ∧ Drawn (versionDraws side v) d.x d.y) := by
    rw [sideLength] at hv
    rw [drawn_formatDraws hside hx hy, drawn_versionDraws hside hx hy]
    omega
  rcases List.mem_append.1 hd with hd | hd
  · exact (formatDraws_coloured hside hd).append
      (coloured_of_not_drawn fun h => hapart ⟨⟨d, hd, rfl, rfl⟩, h⟩)
  · exact (coloured_of_not_drawn fun h => hapart ⟨h, d, hd, rfl, rfl⟩).append
      (versionDraws_coloured hside hd)

/-- The final matrix carries the format bits of the chosen mask and the version bits (R296). -/
theorem finalMatrix_information {s : State} (hconf : Configured s) {k : Nat} (m : Matrix) {d : Draw}
    (hd : d ∈ formatDraws s.size.toNat s.ecl k ++ versionDraws s.size.toNat s.version.toNat) :
    cell (finalMatrix s.size.toNat s.version.toNat s.ecl k m).mod d.x d.y = d.dark := by
  have hside := hconf.side_ge
  have hmax := hconf.size_le
  obtain ⟨-, -, hsize, -⟩ := hconf
  obtain ⟨hx, hy⟩ :=
    (formatDraws_inSymbol hside s.ecl k).append (versionDraws_inSymbol hside s.version.toNat) d hd
  exact drawAll_mod_of_coloured _ (hx.trans_le hmax) (hy.trans_le hmax) ⟨d, hd, rfl, rfl⟩
    (finalDraws_coloured hside hsize hd)

/-- A function cell of neither format nor version keeps its colour (R282, R296). -/
theorem finalMatrix_function {side v k x y : Nat} {ecl : Level} {m : Matrix}
    (hfn : cell m.fn x y = true)
    (hundrawn : drawn (formatDraws side ecl 0 ++ versionDraws side v) x y = false) :
    cell (finalMatrix side v ecl k m).mod x y = cell m.mod x y := by
  have hany : ((formatDraws side ecl k ++ versionDraws side v).any fun d => d.at x y) = false := by
    rw [List.any_append, formatDraws_at, ← List.any_append]
    exact hundrawn
  rw [finalMatrix, drawAll_mod_of_undrawn _ _ fun d hd => by simpa using List.any_eq_false.1 hany d hd,
    cell_applyMask, if_neg (by simp [hfn])]

/-- Settles O53: no penalty breaks its bound, so the final matrix is made; what it draws lies on
function cells, and the mask inverts free ones. -/
theorem maskAlwaysCompletes : Obligations.MaskAlwaysCompletes := by
  intro s hphase hconf hflags
  have hsize := hconf.size_le
  obtain ⟨t, ht⟩ := maskBody_completes hphase hconf
  have hmatrix := maskBody_matrix ht
  have hdark := maskBody_dark ht
  have houtside : SameOutside s.size.toNat s.matrix t.matrix :=
    hmatrix ▸ finalMatrix_sameOutside hconf.side_ge _ _ _ _
  have hflags' := maskBody_flags hsize ht hflags
  have hframe := maskBody_ok ht
  refine ⟨t, exec_mask (by simp [hphase]) ht, ?frame, ?dark, fun x y => ?flag, fun d hd => ?information,
    fun x hx y hy hfn => ?free, fun x hx y hy hfn hundrawn => ?function, houtside⟩
  case frame =>
    obtain ⟨-, pen, m, k, dark, -, -, rfl⟩ := hframe
    simp only [← hdark]
  case dark =>
    rw [hdark, BitVec.toNat_ofNat, Nat.mod_eq_of_lt (hconf.darkCount_lt _)]
  case flag =>
    by_cases hin : x < s.size.toNat ∧ y < s.size.toNat
    · obtain ⟨hx, hy⟩ := hin
      obtain ⟨-, pen, m, k, dark, -, -, rfl⟩ := hframe
      rw [hflags (.inl hphase) x hx y hy]
      exact hflags' (.inr rfl) x hx y hy
    · exact (houtside x y hin).2
  case information =>
    rw [hmatrix]
    exact finalMatrix_information hconf _ hd
  case free =>
    rw [hmatrix]
    exact finalMatrix_free _ hsize hx hy hfn ((hflags (.inl hphase) x hx y hy).symm.trans hfn)
  case function =>
    rw [hmatrix]
    exact finalMatrix_function hfn hundrawn

end Sys2Proof.Machine
end

section
/-! PROOFS. The penalty of a line (spec/44_masker.md R285 to R289): the scan taken run by run, and its
sliding history as a window over the runs between the light borders; with it the masks and the four
terms in closed form (R280 to R291). -/

namespace Sys2Proof.Machine

open Sys2Proof.Claims

/-! ### A line as runs -/

/-- The cells of runs of the given lengths, the colours by turns from `dark` on. -/
def runCells : Bool → List Nat → List Bool
  | _, [] => []
  | dark, n :: ns => List.replicate n dark ++ runCells (!dark) ns

/-- Every line is a light run, which may be empty, and further runs. -/
theorem exists_runCells (cells : List Bool) :
    ∃ k ns, (∀ n ∈ ns, 0 < n) ∧ cells = runCells false (k :: ns) := by
  induction cells with
  | nil => exact ⟨0, [], nofun, rfl⟩
  | cons c cells ih =>
    obtain ⟨k, ns, hpos, rfl⟩ := ih
    cases c with
    | false => exact ⟨k + 1, ns, hpos, rfl⟩
    | true =>
      cases k with
      | succ k => exact ⟨0, 1 :: (k + 1) :: ns, by simpa using hpos, rfl⟩
      | zero =>
        cases ns with
        | nil => exact ⟨0, [1], by simp, rfl⟩
        | cons n ns =>
          refine ⟨0, (n + 1) :: ns, ?_, rfl⟩
          rw [List.forall_mem_cons] at hpos ⊢
          exact ⟨n.succ_pos, hpos.2⟩

theorem runCells_head? {dark : Bool} {ns : List Nat} (hpos : ∀ n ∈ ns, 0 < n) :
    ∀ c ∈ (runCells dark ns).head?, c = dark := by
  cases ns with
  | nil => nofun
  | cons n ns =>
    obtain ⟨m, rfl⟩ := Nat.exists_eq_succ_of_ne_zero (hpos n List.mem_cons_self).ne'
    simp [runCells, List.replicate_succ]

/-- The runs of a line of runs. -/
theorem length_splitBy_runCells {dark : Bool} {ns : List Nat} (hpos : ∀ n ∈ ns, 0 < n) :
    ((runCells dark ns).splitBy (· == ·)).map List.length = ns := by
  induction ns generalizing dark with
  | nil => rfl
  | cons n ns ih =>
    obtain ⟨hn, hrest⟩ := List.forall_mem_cons.1 hpos
    have hrun : (List.replicate n dark).splitBy (· == ·) = [List.replicate n dark] :=
      List.splitBy_of_isChain (by simpa using hn.ne') (by simp [List.isChain_replicate_of_rel])
    rw [runCells, List.splitBy_append, hrun, List.map_append, ih hrest]
    · simp
    · intro a ha b hb
      obtain rfl := runCells_head? hrest b hb
      obtain rfl := List.eq_of_mem_replicate (List.mem_of_mem_getLast? ha)
      cases a <;> rfl

/-! ### The scan run by run -/

/-- What a maximal run adds to P1 (R285). -/
def runValue (n : Nat) : Nat := if n ≥ 5 then 3 + (n - 5) else 0

theorem runScore_eq (cells : List Bool) :
    runScore cells = (((cells.splitBy (· == ·)).map List.length).map runValue).sum := by
  rw [List.map_map]
  rfl

/-- The scan from a run's end to the end of the next, of length `n` (R285, R289). -/
def scanRun (side : Nat) (l : LineScan) (n : Nat) : LineScan where
  dark := !l.dark
  len := n
  hist := histPush side l.len l.hist
  p1 := l.p1 + runValue n
  p3 := l.p3 + (if l.dark then 0 else countPatterns (histPush side l.len l.hist) * 40)

/-- More cells of the open run's colour lengthen it. -/
theorem foldl_scanCell_replicate (side k p q n : Nat) (dark : Bool) (h : RunHistory) :
    (List.replicate n dark).foldl (scanCell side) ⟨dark, k, h, p + runValue k, q⟩ =
      ⟨dark, k + n, h, p + runValue (k + n), q⟩ := by
  induction n generalizing k with
  | zero => rfl
  | succ n ih =>
    have hcell : scanCell side ⟨dark, k, h, p + runValue k, q⟩ dark =
        ⟨dark, k + 1, h, p + runValue (k + 1), q⟩ := by
      rw [scanCell, if_pos rfl]
      simp only [LineScan.mk.injEq, true_and, and_true, runValue]
      split_ifs <;> omega
    rw [List.replicate_succ, List.foldl_cons, hcell, ih, Nat.add_right_comm, Nat.add_assoc]

theorem foldl_scanCell_run {side n : Nat} (l : LineScan) (hn : 0 < n) :
    (List.replicate n (!l.dark)).foldl (scanCell side) l = scanRun side l n := by
  obtain ⟨m, rfl⟩ := Nat.exists_eq_add_of_le' hn
  have hcell : scanCell side l (!l.dark) = { scanRun side l 1 with p1 := l.p1 + runValue 1 } := by
    rw [scanCell, if_neg (by simp)]
    rfl
  rw [List.replicate_succ, List.foldl_cons, hcell]
  refine (foldl_scanCell_replicate side 1 l.p1 _ m _ _).trans ?_
  rw [Nat.add_comm 1 m]
  rfl

theorem foldl_scanCell_runCells {side : Nat} {ns : List Nat} (l : LineScan)
    (hpos : ∀ n ∈ ns, 0 < n) :
    (runCells (!l.dark) ns).foldl (scanCell side) l = ns.foldl (scanRun side) l := by
  induction ns generalizing l with
  | nil => rfl
  | cons n ns ih =>
    obtain ⟨hn, hpos⟩ := List.forall_mem_cons.1 hpos
    rw [runCells, List.foldl_append, foldl_scanCell_run l hn, List.foldl_cons]
    exact ih (scanRun side l n) hpos

/-- The scan after a line's first light run, which may be empty. -/
def firstRun (k : Nat) : LineScan := ⟨false, k, emptyHistory, runValue k, 0⟩

theorem scanLine_runCells {side k : Nat} {ns : List Nat} (hpos : ∀ n ∈ ns, 0 < n) :
    scanLine side (runCells false (k :: ns)) = ns.foldl (scanRun side) (firstRun k) := by
  have hfirst : (List.replicate k false).foldl (scanCell side) lineStart = firstRun k := by
    simpa [firstRun, runValue, lineStart] using
      foldl_scanCell_replicate side 0 0 0 k false emptyHistory
  rw [scanLine, runCells, List.foldl_append, hfirst]
  exact foldl_scanCell_runCells (firstRun k) hpos

theorem foldl_scanRun_p1 (side : Nat) (ns : List Nat) (l : LineScan) :
    (ns.foldl (scanRun side) l).p1 = l.p1 + (ns.map runValue).sum := by
  induction ns generalizing l with
  | nil => rfl
  | cons n ns ih => rw [List.foldl_cons, ih, List.map_cons, List.sum_cons, ← Nat.add_assoc]; rfl

/-- The first light run is no run of the line if it is empty, and then it scores nothing. -/
theorem runs_runCells {k : Nat} {ns : List Nat} (hpos : ∀ n ∈ ns, 0 < n) :
    ((runCells false (k :: ns)).splitBy (· == ·)).map List.length =
      if k = 0 then ns else k :: ns := by
  split
  · subst k
    exact length_splitBy_runCells hpos
  · next hk =>
    exact length_splitBy_runCells (List.forall_mem_cons.2 ⟨Nat.pos_of_ne_zero hk, hpos⟩)

theorem runScore_runCells {k : Nat} {ns : List Nat} (hpos : ∀ n ∈ ns, 0 < n) :
    runScore (runCells false (k :: ns)) = runValue k + (ns.map runValue).sum := by
  rw [runScore_eq, runs_runCells hpos]
  split
  · subst k
    exact (Nat.zero_add _).symm
  · rfl

theorem scanLine_p1 (side : Nat) (cells : List Bool) : (scanLine side cells).p1 = runScore cells := by
  obtain ⟨k, ns, hpos, rfl⟩ := exists_runCells cells
  rw [scanLine_runCells hpos, foldl_scanRun_p1, runScore_runCells hpos]
  rfl

/-- Settles O47: run by run, the scan adds what each maximal run scores. -/
theorem runsScoreThreePlusExcess : Obligations.RunsScoreThreePlusExcess := scanLine_p1

/-! ### The history as a window -/

/-- A run length put in front of the history, with no border. -/
def RunHistory.push (n : Nat) (h : RunHistory) : RunHistory := ⟨n, h.h0, h.h1, h.h2, h.h3, h.h4, h.h5⟩

/-- The length `hist_push` puts in front: the line's first run gets the light border (R286). -/
def borderedLength (side n : Nat) (h : RunHistory) : Nat := if h.h0 = 0 then n + side else n

theorem histPush_eq (side n : Nat) (h : RunHistory) :
    histPush side n h = h.push (borderedLength side n h) := rfl

/-- After the first run no further run gets the border. -/
theorem borderedLength_push {side k : Nat} {h : RunHistory} (hk : 0 < k ∨ h.h0 = 0) (n : Nat) :
    borderedLength side n (h.push (borderedLength side k h)) = n := by
  simp only [borderedLength, RunHistory.push]
  split_ifs <;> omega

/-- The run lengths still to be pushed, with the light border at the line's end: a last dark run is
followed by the border alone (R288). -/
def endRuns (side : Nat) : Bool → List Nat → List Nat
  | _, [] => []
  | dark, [n] => if dark then [n, side] else [n + side]
  | dark, n :: m :: ns => n :: endRuns side (!dark) (m :: ns)

/-- The patterns counted as runs are pushed, at each light one (R287, R288). -/
def pushedPatterns : Bool → RunHistory → List Nat → Nat
  | _, _, [] => 0
  | dark, h, n :: ns =>
    (if dark then 0 else countPatterns (h.push n)) + pushedPatterns (!dark) (h.push n) ns

/-- The end of a line pushes its last run and the border (R288). -/
theorem terminateAndCount_eq {side k : Nat} {h : RunHistory} (dark : Bool)
    (hk : 0 < k ∨ h.h0 = 0) : terminateAndCount side dark k h =
      pushedPatterns dark h (endRuns side dark [borderedLength side k h]) := by
  cases dark with
  | true =>
    have hborder := borderedLength_push (side := side) hk side
    simp [terminateAndCount, endRuns, pushedPatterns, histPush_eq, hborder]
  | false =>
    have hlast : borderedLength side (k + side) h = borderedLength side k h + side := by
      unfold borderedLength
      split <;> omega
    simp [terminateAndCount, endRuns, pushedPatterns, histPush_eq, hlast]

/-- A scan's shares of P1 and P3 with its end counted (R289). -/
def lineScore (side : Nat) (l : LineScan) : Nat :=
  l.p1 + (l.p3 + terminateAndCount side l.dark l.len l.hist * 40)

theorem lineScore_foldl_scanRun {side : Nat} {ns : List Nat} (l : LineScan)
    (hpos : ∀ n ∈ ns, 0 < n) (hl : 0 < l.len ∨ l.hist.h0 = 0) :
    lineScore side (ns.foldl (scanRun side) l) = l.p1 + (ns.map runValue).sum + (l.p3 +
      40 * pushedPatterns l.dark l.hist
        (endRuns side l.dark (borderedLength side l.len l.hist :: ns))) := by
  induction ns generalizing l with
  | nil =>
    rw [List.foldl_nil, lineScore, terminateAndCount_eq _ hl, Nat.mul_comm]
    rfl
  | cons n ns ih =>
    obtain ⟨hn, hpos⟩ := List.forall_mem_cons.1 hpos
    rw [List.foldl_cons, ih (scanRun side l n) hpos (.inl hn)]
    have hborder := borderedLength_push (side := side) hl n
    simp only [scanRun, histPush_eq, hborder, endRuns, pushedPatterns, List.map_cons, List.sum_cons]
    split <;> omega

/-! ### The finder-like occurrences -/

/-- The finder-like occurrences at every second of a list of runs, from the first on. -/
def lightFinders : List Nat → Nat
  | [] => 0
  | [_] => 0
  | a :: b :: l => finderScore (a :: b :: l) + lightFinders l

/-- The windows of `lineFinders` taken one after another. -/
theorem lightFinders_eq (l : List Nat) :
    (((List.range l.length).filter fun i => i % 2 = 0).map fun i => finderScore (l.drop i)).sum =
      lightFinders l := by
  induction l using lightFinders.induct with
  | case1 => rfl
  | case2 a => rfl
  | case3 a b l ih =>
    have hrange : List.range (l.length + 2) = 0 :: 1 :: (List.range l.length).map (· + 2) := by
      simp [List.range_succ_eq_map]
    rw [List.length_cons, List.length_cons, hrange, lightFinders, ← ih]
    simp [List.filter_map, Function.comp_def]

/-- A history and the run that completes it are a window, newest run last (R286, R287). -/
theorem countPatterns_push (h : RunHistory) (n : Nat) (l : List Nat) :
    countPatterns (h.push n) =
      finderScore (h.h5 :: h.h4 :: h.h3 :: h.h2 :: h.h1 :: h.h0 :: n :: l) := by
  have hcore : patternCore (h.push n) = true ↔
      h.h4 > 0 ∧ h.h3 = h.h4 ∧ h.h2 = 3 * h.h4 ∧ h.h1 = h.h4 ∧ h.h0 = h.h4 := by
    simp only [patternCore, RunHistory.push, Bool.and_eq_true, gt_iff_lt, decide_eq_true_eq,
      beq_iff_eq]
    omega
  rw [countPatterns, finderScore]
  by_cases hpattern : patternCore (h.push n) = true
  · have ⟨_, _, _, _, hunit⟩ := hcore.1 hpattern
    change (h.push n).h1 = h.h4 at hunit
    rw [if_pos (hcore.1 hpattern), Nat.add_comm]
    simp only [hpattern, hunit, Bool.true_and, Bool.and_eq_true, decide_eq_true_eq]
    rfl
  · rw [if_neg (mt hcore.2 hpattern)]
    simp [hpattern]

/-- What is counted while the runs are pushed are the windows that end at a light run. -/
theorem pushedPatterns_eq (ns : List Nat) (h : RunHistory) :
    pushedPatterns false h ns =
        lightFinders (h.h5 :: h.h4 :: h.h3 :: h.h2 :: h.h1 :: h.h0 :: ns) ∧
      pushedPatterns true h ns = lightFinders (h.h4 :: h.h3 :: h.h2 :: h.h1 :: h.h0 :: ns) := by
  induction ns generalizing h with
  | nil => exact ⟨rfl, rfl⟩
  | cons n ns ih =>
    obtain ⟨hlight, hdark⟩ := ih (h.push n)
    constructor
    · rw [pushedPatterns, lightFinders, ← countPatterns_push]
      exact congrArg (_ + ·) hdark
    · exact (Nat.zero_add _).trans hlight

theorem finderScore_zero (a : Nat) (l : List Nat) : finderScore (a :: 0 :: l) = 0 := by
  unfold finderScore
  split
  · next h =>
    cases h
    simp
  · rfl

/-- The windows that reach back before the line's first run count nothing. -/
theorem pushedPatterns_emptyHistory (ns : List Nat) :
    pushedPatterns false emptyHistory ns = lightFinders ns := by
  rw [(pushedPatterns_eq ns emptyHistory).1]
  simp [lightFinders, emptyHistory, finderScore_zero]

/-! ### The borders -/

/-- The last length of a list raised by the border. -/
def raiseLast (side : Nat) : List Nat → List Nat
  | [] => []
  | [n] => [n + side]
  | n :: m :: ns => n :: raiseLast side (m :: ns)

theorem mapIdx_raiseLast (side : Nat) (ns : List Nat) :
    ns.mapIdx (fun i n => n + if i + 1 = ns.length then side else 0) = raiseLast side ns := by
  induction ns using raiseLast.induct with
  | case1 => rfl
  | case2 n => rfl
  | case3 n m ns ih =>
    rw [List.mapIdx_cons, raiseLast, ← ih]
    simp

theorem endRuns_eq (side : Nat) (dark : Bool) (n : Nat) (ns : List Nat) :
    endRuns side dark (n :: ns) = raiseLast side
      (n :: if (ns.length % 2 = 0 ↔ dark = true) then ns ++ [0] else ns) := by
  induction ns generalizing n dark with
  | nil => cases dark <;> simp [endRuns, raiseLast]
  | cons m ns ih =>
    have hparity : ((m :: ns).length % 2 = 0 ↔ dark = true) ↔
        (ns.length % 2 = 0 ↔ (!dark) = true) := by
      rw [List.length_cons]
      cases dark <;>
        simp only [Bool.not_true, Bool.not_false, Bool.false_eq_true, iff_true, iff_false] <;> omega
    rw [endRuns, ih, if_congr hparity rfl rfl]
    split <;> rfl

/-- Both borders: the first and the last length raised (R286, R288). -/
theorem mapIdx_borders (side k : Nat) (ns : List Nat) :
    (k :: ns).mapIdx (fun i n => n + (if i = 0 then side else 0) +
      (if i + 1 = (k :: ns).length then side else 0)) = raiseLast side ((k + side) :: ns) := by
  rw [← mapIdx_raiseLast, List.mapIdx_cons, List.mapIdx_cons]
  simp

theorem runCells_headD {k : Nat} {ns : List Nat} (hpos : ∀ n ∈ ns, 0 < n) :
    (runCells false (k :: ns)).headD false = decide (k = 0 ∧ ns ≠ []) := by
  cases k with
  | succ k => simp [runCells, List.replicate_succ]
  | zero =>
    cases ns with
    | nil => rfl
    | cons n ns =>
      obtain ⟨m, rfl⟩ := Nat.exists_eq_succ_of_ne_zero (hpos n List.mem_cons_self).ne'
      simp [runCells, List.replicate_succ]

/-- The runs between the borders are those the scan pushes (R286, R288). -/
theorem borderedRuns_runCells {side k : Nat} {ns : List Nat} (hpos : ∀ n ∈ ns, 0 < n) :
    borderedRuns side (runCells false (k :: ns)) = endRuns side false ((k + side) :: ns) := by
  have hlight : (if (runCells false (k :: ns)).headD false then
        0 :: (if k = 0 then ns else k :: ns) else if k = 0 then ns else k :: ns) =
      if k = 0 ∧ ns = [] then [] else k :: ns := by
    rw [runCells_headD hpos]
    by_cases hk : k = 0 <;> by_cases hns : ns = [] <;> simp [hk, hns]
  have hpadded (runs : List Nat) (h : runs = if k = 0 ∧ ns = [] then [] else k :: ns) :
      (if runs.length % 2 = 0 then runs ++ [0] else runs) =
        k :: if (ns.length % 2 = 0 ↔ false = true) then ns ++ [0] else ns := by
    subst h
    by_cases hempty : k = 0 ∧ ns = []
    · simp [hempty]
    · rw [if_neg hempty, List.length_cons]
      by_cases hparity : ns.length % 2 = 0
      · rw [if_neg (by omega), if_neg (by simp [hparity])]
      · rw [if_pos (by omega), if_pos (by simp [hparity])]
        rfl
  rw [endRuns_eq, ← mapIdx_borders, ← hpadded _ hlight, ← runs_runCells hpos]
  rfl

theorem linePenalty_eq (side : Nat) (cells : List Bool) :
    linePenalty side cells = runScore cells + 40 * lineFinders side cells := by
  obtain ⟨k, ns, hpos, rfl⟩ := exists_runCells cells
  have hscore := lineScore_foldl_scanRun (side := side) (firstRun k) hpos (.inr rfl)
  rw [← scanLine_runCells hpos] at hscore
  refine hscore.trans ?_
  rw [lineFinders, lightFinders_eq, borderedRuns_runCells hpos, ← pushedPatterns_emptyHistory,
    runScore_runCells hpos]
  simp [firstRun, borderedLength, emptyHistory]

/-! ### The rules -/

/-- The conditions of R281 are the mask's. -/
theorem maskConditions_getElem? {k : Nat} (hk : k < 8) (x y : Nat) :
    (maskConditions[k]?.getD fun _ _ => false) x y = maskAt k x y := by
  interval_cases k <;> rfl

/-- A mask inverts the free cells of the symbol it holds at (R280, R282). -/
theorem cell_applyMask_xor {k side : Nat} (hside : side ≤ Config.maxSide) (m : Matrix) (x y : Nat) :
    cell (applyMask k side m).mod x y =
      (cell m.mod x y ^^ (decide (x < side ∧ y < side) && !cell m.fn x y && maskAt k x y)) := by
  rw [cell_applyMask]
  by_cases hin : x < side ∧ y < side
  · have hx := hin.1.trans_le hside
    have hy := hin.2.trans_le hside
    cases cell m.fn x y <;> cases maskAt k x y <;> simp [hin, hx, hy]
  · rw [if_neg fun ⟨⟨hx, hy, _⟩, _⟩ => hin ⟨hx, hy⟩, decide_eq_false hin]
    simp

/-- The lines of a symbol: its rows and its columns. -/
def symbolLines (side : Nat) (g : Grid) : List (List Bool) :=
  (List.range side).map (rowCells side g) ++ (List.range side).map (columnCells side g)

/-- P1 + P3 (R285, R287). -/
theorem runPenalty_eq (side : Nat) (g : Grid) : runPenalty side g =
    ((symbolLines side g).map runScore).sum +
      40 * ((symbolLines side g).map (lineFinders side)).sum := by
  have hlines : runPenalty side g = ((symbolLines side g).map (linePenalty side)).sum := by
    simp only [runPenalty, symbolLines, List.map_append, List.map_map, List.sum_append]
    rfl
  rw [hlines, ← List.sum_map_mul_left, ← List.sum_map_add]
  exact congrArg List.sum (List.map_congr_left fun cells _ => linePenalty_eq side cells)

/-- The cells, or windows, of a square that meet a condition, counted row by row. -/
theorem sum_countP_eq_length (n : Nat) (p q : Nat → Nat → Bool) (h : ∀ x y, p x y = q x y) :
    ((List.range n).map fun y => (List.range n).countP fun x => p x y).sum =
      ((List.range n).flatMap fun y => (List.range n).filter fun x => q x y).length := by
  simp only [h, List.length_flatMap, List.countP_eq_length_filter]

/-- A window has one colour if its other cells have that of its corner (R290). -/
theorem sameBlock_eq (g : Grid) (x y : Nat) : sameBlock g x y =
    [cell g (x + 1) y, cell g x (y + 1), cell g (x + 1) (y + 1)].all (· == cell g x y) := by
  unfold sameBlock
  cases cell g x y <;> cases cell g (x + 1) y <;> cases cell g x (y + 1) <;>
    cases cell g (x + 1) (y + 1) <;> rfl

theorem penaltySum_eq {side : Nat} (hside : 0 < side) (g : Grid) :
    penaltySum side g = fourTerms side g := by
  have hwindows := sum_countP_eq_length (side - 1) _ _ (sameBlock_eq g)
  have hdark := sum_countP_eq_length side (cell g) _ fun _ _ => rfl
  have hcells : 0 < side * side := Nat.mul_pos hside hside
  have hround (a : Nat) : a + (side * side - 1) = a + side * side - 1 := by omega
  simp only [penaltySum, fourTerms, runPenalty_eq, symbolLines, blockPenalty, hwindows, darkCount,
    hdark, balanceCeiling, hround]
  ring

/-- Settles O48: a cell is masked as R282 says, a line's scan counts what its runs show, and the
windows and the balance are counted as R290 and R291 say. -/
theorem masksAndPenaltyFollowTheirRules : Obligations.MasksAndPenaltyFollowTheirRules := by
  refine ⟨fun k hk v m _ hv => ⟨rfl, fun x y => ?mask⟩, linePenalty_eq, fun v g _ hv => ?terms⟩
  case mask =>
    have hside : sideLength v ≤ Config.maxSide := by
      rw [sideLength, Config.maxSide]
      omega
    rw [maskConditions_getElem? hk, cell_applyMask_xor hside]
  case terms =>
    have hside : 0 < sideLength v := by
      unfold sideLength
      omega
    rw [penalty_eq hv, penaltySum_eq hside]

end Sys2Proof.Machine
end

section
/-! PROOFS. A failing command's error entry is the rollback (spec/60_exceptions.md R322), ERROR
ignores every command but SOFT_RESET (R323), and each command raises only the codes of its row
(R321). -/

namespace Sys2Proof.Machine

open Sys2Proof.Claims

/-! ### Error entry -/

/-- Settles O20: of everything a command can do (`exec_cases`), only the error entry of a body that
failed ends in ERROR, and it starts from the state before the body. -/
theorem failingCommandLeavesOnlyTheErrorFields :
    Obligations.FailingCommandLeavesOnlyTheErrorFields := by
  intro i s t h hs ht
  rcases exec_cases i s with ⟨he, -⟩ | ⟨-, he⟩ | ⟨b, u, hb, -, hok, he⟩ | ⟨b, c, hb, -, hfail, he⟩ <;>
    rw [he] at h <;> cases h
  · exact absurd ht hs
  · cases ht
  · exact absurd ht (body_phase_ne hb hok).2.2
  · exact ⟨c, (commandBody_failsRaised hb s c hfail).1, rfl⟩

/-! ### In ERROR -/

/-- Of all registers only STATUS shows an error field, and only the readback windows look at the
phase. -/
theorem readReg_errorEntry (c : ErrCode) (op : Byte) (s : State) {r : Reg} (hstatus : r ≠ .status)
    (hmod : r ≠ .modData) (hcw : r ≠ .cwData) : readReg (errorEntry c op s) r = readReg s r := by
  cases r with
  | status => exact absurd rfl hstatus
  | modData => exact absurd rfl hmod
  | cwData => exact absurd rfl hcw
  | _ => rfl

theorem busRead_errorEntry (width : Nat) (c : ErrCode) (op : Byte) (s : State) {off : Nat}
    (hstatus : off ≠ 0x00C) (hmod : off ≠ 0x064) (hcw : off ≠ 0x06C) :
    busRead off width (errorEntry c op s) = busRead off width s := by
  unfold busRead
  cases hr : registerAt off with
  | none => rfl
  | some r =>
    have hne (r' : Reg) (h : off ≠ r'.offset) : r ≠ r' := by
      rintro rfl
      exact h (registerAt_offset hr)
    simp only [readReg_errorEntry c op s (hne .status hstatus) (hne .modData hmod) (hne .cwData hcw)]

theorem modDataWord_in_error {s : State} (h : s.phase = .error) : modDataWord s = 0 :=
  if_neg (by simp [h])

theorem cwDataWord_in_error {s : State} (h : s.phase = .error) : cwDataWord s = 0 := by
  simp [cwDataWord, h, Phase.showsStream]

/-- Settles O21: a command word is ignored (`commandStep_in_error`), the host's registers are written
in every phase, and reads other than STATUS's and the windows' do not see error entry. -/
theorem errorIgnoresCommands : Obligations.ErrorIgnoresCommands := by
  refine ⟨fun s w rest hs hw hp => ?_,
    fun s w rest _ => ⟨step_of_pending, step_of_pending, step_of_pending⟩,
    fun s hs => ⟨modDataWord_in_error hs, cwDataWord_in_error hs⟩,
    fun s c op => ⟨fun off hoff => ?_, fun k hk => ?_⟩⟩
  · rw [step_of_pending_cmd hp]
    exact commandStep_in_error (s := { s with pending := rest }) hs hw
  · obtain ⟨hstatus, hmod, hcw⟩ : off ≠ 0x00C ∧ off ≠ 0x064 ∧ off ≠ 0x06C := by
      revert off
      decide
    exact busRead_errorEntry 4 c op s hstatus hmod hcw
  · exact busRead_errorEntry 4 c op s (by omega) (by omega) (by omega)

/-! ### The codes of each command -/

/-- If it fails, it raises one of the codes. -/
def RaisesOnly {α : Type} (codes : List ErrCode) (x : Except ErrCode α) : Prop :=
  ∀ c, x = .error c → c ∈ codes

theorem raisesOnly_ok {α : Type} {codes : List ErrCode} (a : α) :
    RaisesOnly codes (.ok a : Except ErrCode α) :=
  fun _ h => nomatch h

theorem raisesOnly_error {α : Type} {codes : List ErrCode} {c : ErrCode} (h : c ∈ codes) :
    RaisesOnly codes (.error c : Except ErrCode α) := by
  rintro _ ⟨⟩
  exact h

theorem RaisesOnly.ite {α : Type} {codes : List ErrCode} {p : Prop} [Decidable p]
    {x y : Except ErrCode α} (hx : RaisesOnly codes x) (hy : RaisesOnly codes y) :
    RaisesOnly codes (if p then x else y) := by
  by_cases h : p
  · rwa [if_pos h]
  · rwa [if_neg h]

/-- A guard that fails with *InvalidArgument*, the first code of every row. -/
theorem RaisesOnly.guard {α : Type} {codes : List ErrCode} {p : Prop} [Decidable p]
    {x : Except ErrCode α} (hx : RaisesOnly (.invalidArgument :: codes) x) :
    RaisesOnly (.invalidArgument :: codes) (if p then .error .invalidArgument else x) :=
  .ite (raisesOnly_error List.mem_cons_self) hx

theorem RaisesOnly.bind {α β : Type} {codes : List ErrCode} {x : Except ErrCode α}
    {f : α → Except ErrCode β} (hx : RaisesOnly codes x)
    (hf : ∀ a, RaisesOnly codes (f a)) : RaisesOnly codes (x >>= f) := by
  intro c h
  rcases bind_error.1 h with h | ⟨a, -, h⟩
  · exact hx c h
  · exact hf a c h

/-! ### The codes of PUT -/

/-- PUT's row; an append raises only codes of it. -/
abbrev putCodes : List ErrCode := [.invalidArgument, .incompatibleOverride, .dataTooLong]

theorem appendBits_raisesOnly (value n : Nat) (s : State) :
    RaisesOnly putCodes (appendBits value n s) :=
  .guard <| .ite (raisesOnly_error (by decide)) (raisesOnly_ok _)

theorem appendBits_then_raisesOnly (value n : Nat) (s : State) (f : State → State) :
    RaisesOnly putCodes (appendBits value n s >>= fun t => .ok (f t)) :=
  .bind (appendBits_raisesOnly _ _ _) fun _ => raisesOnly_ok _

theorem putValue_raisesOnly (mode : Mode) (v : Nat) (s : State) :
    RaisesOnly putCodes (putValue mode v s) := by
  cases mode with
  | numeric => exact .ite (appendBits_then_raisesOnly _ _ _ _) (raisesOnly_ok _)
  | alphanumeric => exact .ite (raisesOnly_ok _) (appendBits_then_raisesOnly _ _ _ _)
  | byte => exact appendBits_raisesOnly _ _ _
  | kanji => exact appendBits_raisesOnly _ _ _

theorem segmentClose_raisesOnly (s : State) : RaisesOnly putCodes (segmentClose s) := by
  unfold segmentClose
  cases flushWidth s.segMode s.pendN.toNat with
  | none => exact raisesOnly_ok _
  | some w => exact appendBits_then_raisesOnly _ _ _ _

theorem putBody_raisesOnly (c : BitVec 16) (s : State) :
    RaisesOnly (raisable (.put c)) (putBody c s) := by
  refine .guard ?_
  cases charValue s.segMode c.toNat with
  | none => exact raisesOnly_error (by decide)
  | some v =>
    exact .bind (putValue_raisesOnly _ _ _) fun _ =>
      .ite (segmentClose_raisesOnly _) (raisesOnly_ok _)

/-! ### The codes of CONFIG, FINISH, ECC, PLACE, MASK and RUN -/

theorem configBody_raisesOnly (f : BitVec 2) (auto : Bool) (id : BitVec 3) (e : Level)
    (v : BitVec 6) (s : State) :
    RaisesOnly (raisable (.config f auto id e v)) (configBody f auto id e v s) := by
  refine .guard (.guard ?_)
  cases fnc1OfCode f with
  | none => exact raisesOnly_error List.mem_cons_self
  | some f => exact raisesOnly_ok _

/-- Where FINISH's guard passes, it cannot fail (R190). -/
theorem finishBody_raisesOnly (codes : List ErrCode) {s : State} (hbuf : BufferOk s) :
    RaisesOnly (.invalidArgument :: codes) (finishBody s) := by
  intro c h
  by_cases hbetween : betweenSegments s = true
  · obtain ⟨hphase, hopen⟩ := betweenSegments_iff.1 hbetween
    rw [finishBody_eq hphase hopen hbuf] at h
    cases h
  · rw [finishBody, if_pos (by simpa using hbetween)] at h
    cases h
    exact List.mem_cons_self

theorem eccBody_raisesOnly (codes : List ErrCode) (s : State) :
    RaisesOnly (.invalidArgument :: codes) (eccBody s) :=
  .guard (raisesOnly_ok _)

theorem placeBody_raisesOnly (s : State) : RaisesOnly (raisable .place) (placeBody s) :=
  .guard <| .ite (raisesOnly_error (by decide)) (raisesOnly_ok _)

/-- The penalty fails only by an assertion of R293. -/
theorem penalty_raisesOnly (side : Nat) (g : Grid) : RaisesOnly (raisable .mask) (penalty side g) :=
  .ite (raisesOnly_error (by decide))
    (.ite (raisesOnly_error (by decide)) (raisesOnly_ok _))

theorem scoreMasks_raisesOnly (ks : List Nat) (s : State) :
    RaisesOnly (raisable .mask) (scoreMasks ks s) := by
  induction ks generalizing s with
  | nil => exact raisesOnly_ok _
  | cons k ks ih =>
    unfold scoreMasks scoreMask
    cases hp : penalty s.size.toNat (applyMask k s.size.toNat s.matrix).mod with
    | error c =>
      simp only [hp]
      exact raisesOnly_error (penalty_raisesOnly _ _ c hp)
    | ok p =>
      simp only [hp]
      exact ih _

theorem maskBody_raisesOnly (s : State) : RaisesOnly (raisable .mask) (maskBody s) := by
  refine .guard ?_
  unfold chooseMask
  by_cases hauto : s.maskAuto = true
  · rw [if_pos hauto]
    cases hk : scoreMasks (List.range 8) s with
    | error c => exact raisesOnly_error (scoreMasks_raisesOnly _ _ c hk)
    | ok u => exact raisesOnly_ok _
  · rw [if_neg hauto]
    exact raisesOnly_ok _

theorem runBody_raisesOnly {s : State} (hbuf : BufferOk s) :
    RaisesOnly (raisable .run) (runBody s) :=
  .bind (finishBody_raisesOnly _ hbuf) fun _ => .bind (eccBody_raisesOnly _ _) fun _ =>
    .bind (placeBody_raisesOnly _) fun _ => maskBody_raisesOnly _

/-! ### The codes of the commands that emit bits -/

/-- A command that fails with *InvalidArgument*, fails with *DataTooLong* or does its work has raised
one of the two codes if it ends in ERROR. -/
theorem err_of_emitting {i : Instr} {op : Byte} {s t u : State} {p q : Prop} [Decidable p]
    [Decidable q]
    (hends : if p then exec i s = .next (errorEntry .invalidArgument op s)
      else if q then exec i s = .next (errorEntry .dataTooLong op s) else exec i s = .next u)
    (hu : u.phase ≠ .error) (h : exec i s = .next t) (ht : t.phase = .error) :
    t.err ∈ [ErrCode.invalidArgument, .dataTooLong] := by
  rw [h] at hends
  split at hends
  · cases hends
    exact List.mem_cons_self
  split at hends <;> cases hends
  · exact List.mem_cons_of_mem _ List.mem_cons_self
  · exact absurd ht hu

/-- Settles O24: a command that ends in ERROR is its body, which failed with the code recorded
(`body_error_of_exec`), or emits bits after its operands are checked. -/
theorem commandsRaiseOnlyTheirListedErrors : Obligations.CommandsRaiseOnlyTheirListedErrors := by
  intro i s t hbuf h hs ht
  have hbody {b : State → Except ErrCode State} (hb : commandBody i = some b)
      (hcodes : RaisesOnly (raisable i) (b s)) : t.err ∈ raisable i :=
    hcodes t.err (body_error_of_exec hb hs h ht)
  cases i with
  | nop a =>
    cases h
    exact absurd ht hs
  | softReset a =>
    cases h
    cases ht
  | config f auto id e v => exact hbody rfl (configBody_raisesOnly f auto id e v s)
  | appendBits n => exact err_of_emitting (appendBitsAppendsTheOperand n s hs) hs h ht
  | saHeader p c i => exact err_of_emitting (saHeaderEmitsTwentyBits p c i s hs) hs h ht
  | eci v => exact err_of_emitting (eciEmitsIndicatorAndDesignator v s hs) hs h ht
  | segBegin count mode => exact err_of_emitting (segBeginEmitsTheHeader count mode s hs) hs h ht
  | put c => exact hbody rfl (putBody_raisesOnly c s)
  | finish => exact hbody rfl (finishBody_raisesOnly _ hbuf)
  | ecc => exact hbody rfl (eccBody_raisesOnly _ s)
  | place => exact hbody rfl (placeBody_raisesOnly s)
  | mask => exact hbody rfl (maskBody_raisesOnly s)
  | run => exact hbody rfl (runBody_raisesOnly hbuf)

end Sys2Proof.Machine
end

section
/-! PROOFS. Reset (spec/70_reset_and_hazards.md R350, R351, spec/40_control.md R132): a state of the
reset values is the reset state but for its arrays, which no register of it shows. -/

namespace Sys2Proof.Machine

/-- M is the level of code 0 (R36). -/
theorem level_eq_m_of_code_eq_zero : ∀ {e : Level}, e.code = 0 → e = .m
  | .m, _ => rfl

theorem atReset_resetElements (s : State) : AtReset (resetElements s) := by
  and_intros <;> rfl

/-- The elements with a reset value are all but the level's name, which its code determines, the
arrays, none of them written, and the host's side of the bus. -/
theorem sameButUnwritten_of_atReset {t : State} (h : AtReset t) :
    SameButUnwritten (resetElements t) t := by
  refine ⟨?_, nofun, nofun, nofun⟩
  cases t
  obtain ⟨rfl, rfl, rfl, rfl, hcode, rfl, rfl, rfl, rfl, rfl, rfl, rfl, rfl, rfl, rfl, rfl, rfl, rfl,
    rfl, rfl, rfl, rfl, rfl, rfl, rfl, rfl, rfl, rfl, rfl, rfl, rfl, rfl, rfl, rfl⟩ := h
  obtain rfl := level_eq_m_of_code_eq_zero hcode
  rfl

/-- No register shows the host's side of the bus. -/
theorem readReg_resetElements (s : State) (r : Reg) :
    readReg (resetElements s) r = readReg State.reset r := by
  cases r <;> rfl

/-- The readback windows are closed in IDLE (R86, R87); every other register shows elements at 0. -/
theorem readReg_reset {r : Reg} (h : r ≠ .id) : readReg State.reset r = 0 := by
  cases r with
  | id => exact absurd rfl h
  | pen k => exact Vector.getElem_replicate k.isLt
  | _ => rfl

theorem busRead_resetElements {off : Nat} (width : Nat) (s : State) (h : off ≠ 0x000) :
    busRead off width (resetElements s) = 0 := by
  unfold busRead
  cases hr : registerAt off with
  | none => exact ite_self _
  | some r =>
    have hid : r ≠ .id := by
      rintro rfl
      exact h (registerAt_offset hr)
    simp only [readReg_resetElements, readReg_reset hid, ite_self]

/-- Settles O15: SOFT_RESET and `rst` are both `resetElements`, and a state of the reset values reads
like the one it answers (`busRead_congr`). -/
theorem resetGivesTheSpecifiedValues : Obligations.ResetGivesTheSpecifiedValues := by
  refine ⟨atReset_resetElements State.reset, fun s a => ?_, fun t ht => ⟨rfl, fun off hoff _ => ?_⟩⟩
  · exact ⟨resetElements s, rfl, atReset_resetElements s, rfl, rfl, fun rest hp => step_of_pending hp⟩
  · rw [← busRead_congr (sameButUnwritten_of_atReset ht) off 4]
    exact busRead_resetElements 4 t (by omega)

end Sys2Proof.Machine
end
